-- ==== Sys2Proof/Word.lean ====
section
/-! DEFINITION. The word types of the codec core: bytes of the input and output streams, the 16-bit and
32-bit words of the control space and of the container fields (00_scope.md R9, R13). -/

namespace Sys2Proof

/-- A byte holds 0..255 (R9). -/
abbrev Byte := BitVec 8

/-- A 16-bit field: a JPEG marker, `LEN`, `NLEN`. -/
abbrev Half := BitVec 16

/-- A 32-bit word: an operand or result register, a chunk type, a CRC. -/
abbrev Word := BitVec 32

end Sys2Proof
end

