-- ==== Sys2Proof/Syntax.lean ====
section
/-! DEFINITION. The instructions of the codec core, one constructor per row of spec/opcode_table.json:
the 21 host commands and the stream elements the running unit fetches at the stream cursor
(30_encoding.md R100 to R120). -/

namespace Sys2Proof

/-- One row of the opcode table. Operands are the fields the element's own word carries; extra bits that
follow a symbol's code are read by its meaning. -/
inductive Instr where
  -- host commands, format `CMD` (30_encoding.md R101)
  /-- `BR_RESET`: bind BR to the input buffer, cursor at 0 (R140). -/
  | brReset
  /-- `BR_READBITS`: read `ARG0` bits, first consumed bit least significant (R142). -/
  | brReadbits
  /-- `BR_READBIT`: read one bit (R143). -/
  | brReadbit
  /-- `BR_READBITS_REV`: read `ARG0` bits, first consumed bit most significant (R144). -/
  | brReadbitsRev
  /-- `BR_ALIGN`: move the cursor to the next byte boundary (R145). -/
  | brAlign
  /-- `BR_READBYTES`: align, then copy `ARG0` bytes to `OUT` (R146). -/
  | brReadbytes
  /-- `HUF_BUILD`: build `T_USER` from `ARG0` code lengths (R161). -/
  | hufBuild
  /-- `HUF_BUILD_FIXED`: build the two fixed trees again (R165). -/
  | hufBuildFixed
  /-- `HUF_DECODE`: decode one symbol with slot `ARG0` (R170). -/
  | hufDecode
  /-- `INF_DECOMPRESS`: decompress a raw DEFLATE stream (R190). -/
  | infDecompress
  /-- `ZLB_DECOMPRESS`: decompress a ZLIB stream (R240). -/
  | zlbDecompress
  /-- `PNG_DECODE`: decode a PNG file (R260). -/
  | pngDecode
  /-- `JHUF_BUILD`: build the JPEG tree slot `ARG0` (R301). -/
  | jhufBuild
  /-- `JC_RESET`: reset the predictors and place JBR at `ARG0` (R308). -/
  | jcReset
  /-- `JC_BLOCK`: decode one block of coefficients (R310). -/
  | jcBlock
  /-- `JDQ_LOAD`: load a quantization table (R330). -/
  | jdqLoad
  /-- `JDQ_BLOCK`: dequantize `COEF` into `DQ` (R331). -/
  | jdqBlock
  /-- `JIDCT_BLOCK`: inverse transform of `DQ` into `SAMP` (R336). -/
  | jidctBlock
  /-- `JCC_PIXEL`: convert one YCbCr pixel (R351). -/
  | jccPixel
  /-- `JCC_GRAY`: replicate a gray sample (R354). -/
  | jccGray
  /-- `JPEG_DECODE`: decode a JPEG file (R360). -/
  | jpegDecode
  -- `DEFLATE_BLOCK_HDR` (R104)
  /-- `BLOCK_STORED`: a stored block follows (R194). -/
  | blockStored (bfinal : Bool)
  /-- `BLOCK_FIXED`: a fixed-tree block follows (R198). -/
  | blockFixed (bfinal : Bool)
  /-- `BLOCK_DYNAMIC`: a dynamic-tree block follows (R199). -/
  | blockDynamic (bfinal : Bool)
  /-- `BLOCK_RESERVED`: type 3 fails (R193). -/
  | blockReserved (bfinal : Bool)
  -- `DEFLATE_STORED` (R105)
  /-- `STORED_LEN_NLEN`: length fields of a stored block, then its bytes (R195 to R197). -/
  | storedLenNlen (len : Half) (nlen : Half)
  -- `DEFLATE_DYN_HDR` (R106)
  /-- `DYN_COUNTS`: counts of a dynamic header, then the code-length code (R200 to R202). -/
  | dynCounts (hlit : BitVec 5) (hdist : BitVec 5) (hclen : BitVec 4)
  -- `CLEN_SYM` (R107)
  /-- `CL_LEN`: the next code length is the symbol (R204). -/
  | clLen (v : BitVec 4)
  /-- `CL_REP`: repeat the previous length 3 to 6 times (R205). -/
  | clRep
  /-- `CL_ZERO3`: 3 to 10 zero lengths (R205). -/
  | clZero3
  /-- `CL_ZERO11`: 11 to 138 zero lengths (R205). -/
  | clZero11
  -- `LITLEN_SYM` (R108)
  /-- `LIT`: emit a literal byte (R211). -/
  | lit (v : Byte)
  /-- `EOB`: end of the block (R212). -/
  | eob
  /-- `LEN_257`: length code 257 (R213, R216). -/
  | len257
  /-- `LEN_258`: length code 258 (R213, R216). -/
  | len258
  /-- `LEN_259`: length code 259 (R213, R216). -/
  | len259
  /-- `LEN_260`: length code 260 (R213, R216). -/
  | len260
  /-- `LEN_261`: length code 261 (R213, R216). -/
  | len261
  /-- `LEN_262`: length code 262 (R213, R216). -/
  | len262
  /-- `LEN_263`: length code 263 (R213, R216). -/
  | len263
  /-- `LEN_264`: length code 264 (R213, R216). -/
  | len264
  /-- `LEN_265`: length code 265 (R213, R216). -/
  | len265
  /-- `LEN_266`: length code 266 (R213, R216). -/
  | len266
  /-- `LEN_267`: length code 267 (R213, R216). -/
  | len267
  /-- `LEN_268`: length code 268 (R213, R216). -/
  | len268
  /-- `LEN_269`: length code 269 (R213, R216). -/
  | len269
  /-- `LEN_270`: length code 270 (R213, R216). -/
  | len270
  /-- `LEN_271`: length code 271 (R213, R216). -/
  | len271
  /-- `LEN_272`: length code 272 (R213, R216). -/
  | len272
  /-- `LEN_273`: length code 273 (R213, R216). -/
  | len273
  /-- `LEN_274`: length code 274 (R213, R216). -/
  | len274
  /-- `LEN_275`: length code 275 (R213, R216). -/
  | len275
  /-- `LEN_276`: length code 276 (R213, R216). -/
  | len276
  /-- `LEN_277`: length code 277 (R213, R216). -/
  | len277
  /-- `LEN_278`: length code 278 (R213, R216). -/
  | len278
  /-- `LEN_279`: length code 279 (R213, R216). -/
  | len279
  /-- `LEN_280`: length code 280 (R213, R216). -/
  | len280
  /-- `LEN_281`: length code 281 (R213, R216). -/
  | len281
  /-- `LEN_282`: length code 282 (R213, R216). -/
  | len282
  /-- `LEN_283`: length code 283 (R213, R216). -/
  | len283
  /-- `LEN_284`: length code 284 (R213, R216). -/
  | len284
  /-- `LEN_285`: length code 285 (R213, R216). -/
  | len285
  /-- `LEN_INVALID`: symbols 286 (`second = false`) and 287 fail (R214). -/
  | lenInvalid (second : Bool)
  -- `DIST_SYM` (R109)
  /-- `DIST_0`: distance code 0 (R217 to R219). -/
  | dist0
  /-- `DIST_1`: distance code 1 (R217 to R219). -/
  | dist1
  /-- `DIST_2`: distance code 2 (R217 to R219). -/
  | dist2
  /-- `DIST_3`: distance code 3 (R217 to R219). -/
  | dist3
  /-- `DIST_4`: distance code 4 (R217 to R219). -/
  | dist4
  /-- `DIST_5`: distance code 5 (R217 to R219). -/
  | dist5
  /-- `DIST_6`: distance code 6 (R217 to R219). -/
  | dist6
  /-- `DIST_7`: distance code 7 (R217 to R219). -/
  | dist7
  /-- `DIST_8`: distance code 8 (R217 to R219). -/
  | dist8
  /-- `DIST_9`: distance code 9 (R217 to R219). -/
  | dist9
  /-- `DIST_10`: distance code 10 (R217 to R219). -/
  | dist10
  /-- `DIST_11`: distance code 11 (R217 to R219). -/
  | dist11
  /-- `DIST_12`: distance code 12 (R217 to R219). -/
  | dist12
  /-- `DIST_13`: distance code 13 (R217 to R219). -/
  | dist13
  /-- `DIST_14`: distance code 14 (R217 to R219). -/
  | dist14
  /-- `DIST_15`: distance code 15 (R217 to R219). -/
  | dist15
  /-- `DIST_16`: distance code 16 (R217 to R219). -/
  | dist16
  /-- `DIST_17`: distance code 17 (R217 to R219). -/
  | dist17
  /-- `DIST_18`: distance code 18 (R217 to R219). -/
  | dist18
  /-- `DIST_19`: distance code 19 (R217 to R219). -/
  | dist19
  /-- `DIST_20`: distance code 20 (R217 to R219). -/
  | dist20
  /-- `DIST_21`: distance code 21 (R217 to R219). -/
  | dist21
  /-- `DIST_22`: distance code 22 (R217 to R219). -/
  | dist22
  /-- `DIST_23`: distance code 23 (R217 to R219). -/
  | dist23
  /-- `DIST_24`: distance code 24 (R217 to R219). -/
  | dist24
  /-- `DIST_25`: distance code 25 (R217 to R219). -/
  | dist25
  /-- `DIST_26`: distance code 26 (R217 to R219). -/
  | dist26
  /-- `DIST_27`: distance code 27 (R217 to R219). -/
  | dist27
  /-- `DIST_28`: distance code 28 (R217 to R219). -/
  | dist28
  /-- `DIST_29`: distance code 29 (R217 to R219). -/
  | dist29
  /-- `DIST_INVALID`: symbols 30 (`second = false`) and 31 fail (R217). -/
  | distInvalid (second : Bool)
  -- `FIXED_CODE_RANGE`, literal/length (R110)
  /-- `FIXLL_0_143`: an 8-bit fixed code of the literal/length symbol `sym`, 0..143 (R110, R166). -/
  | fixll0to143 (sym : BitVec 9)
  /-- `FIXLL_144_255`: a 9-bit fixed code of the literal/length symbol `sym`, 144..255 (R110, R166). -/
  | fixll144to255 (sym : BitVec 9)
  /-- `FIXLL_256_279`: a 7-bit fixed code of the literal/length symbol `sym`, 256..279 (R110, R166). -/
  | fixll256to279 (sym : BitVec 9)
  /-- `FIXLL_280_287`: an 8-bit fixed code of the literal/length symbol `sym`, 280..287 (R110, R166). -/
  | fixll280to287 (sym : BitVec 9)
  -- `FIXED_CODE_RANGE`, distance (R110)
  /-- `FIXD_0_31`: a 5-bit fixed code of the distance symbol `sym` (R110, R167). -/
  | fixd0to31 (sym : BitVec 5)
  -- `ZLIB_STREAM` (R112)
  /-- `ZLIB_HDR`: the two ZLIB header bytes (R241). -/
  | zlibHdr (cmf : Byte) (flg : Byte)
  -- `PNG_FILE` (R113)
  /-- `PNG_SIGNATURE`: the 8 signature bytes (R261). -/
  | pngSignature
  -- `PNG_CHUNK_TYPE` (R113)
  /-- `CHUNK_IHDR`: IHDR chunk (R265). -/
  | chunkIhdr
  /-- `CHUNK_PLTE`: PLTE chunk (R269). -/
  | chunkPlte
  /-- `CHUNK_IDAT`: IDAT chunk (R270). -/
  | chunkIdat
  /-- `CHUNK_IEND`: IEND chunk (R271). -/
  | chunkIend
  /-- `CHUNK_OTHER`: any other chunk type (R272). -/
  | chunkOther (type : Word)
  -- `PNG_IHDR` (R113)
  /-- `IHDR_PAYLOAD`: the 13 payload bytes of IHDR (R265). -/
  | ihdrPayload (width : Word) (height : Word) (depth : Byte) (color : Byte) (compression : Byte) (filter : Byte) (interlace : Byte)
  -- `PNG_COLOR_TYPE` (R113)
  /-- `CT_GRAY`: colour type 0, grayscale (R266, R285). -/
  | ctGray
  /-- `CT_TRUECOLOR`: colour type 2, true-color (R266, R284). -/
  | ctTruecolor
  /-- `CT_INDEXED`: colour type 3, indexed (R266, R286). -/
  | ctIndexed
  /-- `CT_GRAY_ALPHA`: colour type 4, grayscale with alpha (R266, R285). -/
  | ctGrayAlpha
  /-- `CT_TRUECOLOR_ALPHA`: colour type 6, true-color with alpha (R266, R284). -/
  | ctTruecolorAlpha
  /-- `CT_INVALID`: any other colour type is unsupported (R266). -/
  | ctInvalid (v : Byte)
  -- `PNG_FILTER` (R113)
  /-- `FILTER_NONE`: filter 0 (R276). -/
  | filterNone
  /-- `FILTER_SUB`: filter 1 (R277). -/
  | filterSub
  /-- `FILTER_UP`: filter 2 (R278). -/
  | filterUp
  /-- `FILTER_AVERAGE`: filter 3 (R279). -/
  | filterAverage
  /-- `FILTER_PAETH`: filter 4 (R280). -/
  | filterPaeth
  /-- `FILTER_INVALID`: a filter byte above 4 fails (R281). -/
  | filterInvalid (v : Byte)
  -- `JPEG_MARKER` (R114)
  /-- `M_SOI`: start of image (R361, R372). -/
  | mSoi
  /-- `M_EOI`: end of image (R371). -/
  | mEoi
  /-- `M_SOF0`: baseline frame header (R365, R367). -/
  | mSof0
  /-- `M_SOF1`: unsupported process 1 (R366). -/
  | mSof1
  /-- `M_SOF2`: unsupported process 2 (R366). -/
  | mSof2
  /-- `M_SOF3`: unsupported process 3 (R366). -/
  | mSof3
  /-- `M_SOF5`: unsupported process 5 (R366). -/
  | mSof5
  /-- `M_SOF6`: unsupported process 6 (R366). -/
  | mSof6
  /-- `M_SOF7`: unsupported process 7 (R366). -/
  | mSof7
  /-- `M_SOF9`: unsupported process 9 (R366). -/
  | mSof9
  /-- `M_SOF10`: unsupported process 10 (R366). -/
  | mSof10
  /-- `M_SOF11`: unsupported process 11 (R366). -/
  | mSof11
  /-- `M_SOF13`: unsupported process 13 (R366). -/
  | mSof13
  /-- `M_SOF14`: unsupported process 14 (R366). -/
  | mSof14
  /-- `M_SOF15`: unsupported process 15 (R366). -/
  | mSof15
  /-- `M_DHT`: Huffman tables (R370). -/
  | mDht
  /-- `M_DQT`: quantization tables (R368). -/
  | mDqt
  /-- `M_DRI`: restart interval (R369). -/
  | mDri
  /-- `M_SOS`: scan header, then the scan (R373 to R378). -/
  | mSos
  /-- `M_RSTn`: restart marker `n` (R372, R384). -/
  | mRst (n : BitVec 3)
  /-- `M_OTHER`: any other marker code, skipped by its length (R364). -/
  | mOther (code : Byte)
  -- `JPEG_DC_SYM` (R116)
  /-- `DC_CAT`: DC category 0..11 (R311). -/
  | dcCat (t : BitVec 4)
  /-- `DC_INVALID`: a DC symbol above 11 fails (R311). -/
  | dcInvalid (t : Byte)
  -- `JPEG_AC_SYM` (R116)
  /-- `AC_EOB`: end of block (R313). -/
  | acEob
  /-- `AC_ZRL`: skip 16 positions (R314). -/
  | acZrl
  /-- `AC_RUNSIZE`: skip a run, then one coefficient (R315). -/
  | acRunsize (rs : Byte)
  deriving DecidableEq, Repr

/-- The formats of the opcode table (R120): what kind of value the cursor delivers next. -/
inductive Format where
  /-- host commands, format `CMD` (30_encoding.md R101). -/
  | cmd
  /-- `DEFLATE_BLOCK_HDR` (R104). -/
  | blockHdr
  /-- `DEFLATE_STORED` (R105). -/
  | stored
  /-- `DEFLATE_DYN_HDR` (R106). -/
  | dynHdr
  /-- `CLEN_SYM` (R107). -/
  | clen
  /-- `LITLEN_SYM` (R108). -/
  | litlen
  /-- `DIST_SYM` (R109). -/
  | dist
  /-- `FIXED_CODE_RANGE`, literal/length (R110). -/
  | fixedLL
  /-- `FIXED_CODE_RANGE`, distance (R110). -/
  | fixedD
  /-- `ZLIB_STREAM` (R112). -/
  | zlib
  /-- `PNG_FILE` (R113). -/
  | pngFile
  /-- `PNG_CHUNK_TYPE` (R113). -/
  | pngChunk
  /-- `PNG_IHDR` (R113). -/
  | pngIhdr
  /-- `PNG_COLOR_TYPE` (R113). -/
  | pngColor
  /-- `PNG_FILTER` (R113). -/
  | pngFilter
  /-- `JPEG_MARKER` (R114). -/
  | jpegMarker
  /-- `JPEG_DC_SYM` (R116). -/
  | jpegDc
  /-- `JPEG_AC_SYM` (R116). -/
  | jpegAc
  deriving DecidableEq, Repr

/-- The format an instruction belongs to. -/
def formatOf : Instr → Format
  | .brReset => .cmd
  | .brReadbits => .cmd
  | .brReadbit => .cmd
  | .brReadbitsRev => .cmd
  | .brAlign => .cmd
  | .brReadbytes => .cmd
  | .hufBuild => .cmd
  | .hufBuildFixed => .cmd
  | .hufDecode => .cmd
  | .infDecompress => .cmd
  | .zlbDecompress => .cmd
  | .pngDecode => .cmd
  | .jhufBuild => .cmd
  | .jcReset => .cmd
  | .jcBlock => .cmd
  | .jdqLoad => .cmd
  | .jdqBlock => .cmd
  | .jidctBlock => .cmd
  | .jccPixel => .cmd
  | .jccGray => .cmd
  | .jpegDecode => .cmd
  | .blockStored _ => .blockHdr
  | .blockFixed _ => .blockHdr
  | .blockDynamic _ => .blockHdr
  | .blockReserved _ => .blockHdr
  | .storedLenNlen _ _ => .stored
  | .dynCounts _ _ _ => .dynHdr
  | .clLen _ => .clen
  | .clRep => .clen
  | .clZero3 => .clen
  | .clZero11 => .clen
  | .lit _ => .litlen
  | .eob => .litlen
  | .len257 => .litlen
  | .len258 => .litlen
  | .len259 => .litlen
  | .len260 => .litlen
  | .len261 => .litlen
  | .len262 => .litlen
  | .len263 => .litlen
  | .len264 => .litlen
  | .len265 => .litlen
  | .len266 => .litlen
  | .len267 => .litlen
  | .len268 => .litlen
  | .len269 => .litlen
  | .len270 => .litlen
  | .len271 => .litlen
  | .len272 => .litlen
  | .len273 => .litlen
  | .len274 => .litlen
  | .len275 => .litlen
  | .len276 => .litlen
  | .len277 => .litlen
  | .len278 => .litlen
  | .len279 => .litlen
  | .len280 => .litlen
  | .len281 => .litlen
  | .len282 => .litlen
  | .len283 => .litlen
  | .len284 => .litlen
  | .len285 => .litlen
  | .lenInvalid _ => .litlen
  | .dist0 => .dist
  | .dist1 => .dist
  | .dist2 => .dist
  | .dist3 => .dist
  | .dist4 => .dist
  | .dist5 => .dist
  | .dist6 => .dist
  | .dist7 => .dist
  | .dist8 => .dist
  | .dist9 => .dist
  | .dist10 => .dist
  | .dist11 => .dist
  | .dist12 => .dist
  | .dist13 => .dist
  | .dist14 => .dist
  | .dist15 => .dist
  | .dist16 => .dist
  | .dist17 => .dist
  | .dist18 => .dist
  | .dist19 => .dist
  | .dist20 => .dist
  | .dist21 => .dist
  | .dist22 => .dist
  | .dist23 => .dist
  | .dist24 => .dist
  | .dist25 => .dist
  | .dist26 => .dist
  | .dist27 => .dist
  | .dist28 => .dist
  | .dist29 => .dist
  | .distInvalid _ => .dist
  | .fixll0to143 _ => .fixedLL
  | .fixll144to255 _ => .fixedLL
  | .fixll256to279 _ => .fixedLL
  | .fixll280to287 _ => .fixedLL
  | .fixd0to31 _ => .fixedD
  | .zlibHdr _ _ => .zlib
  | .pngSignature => .pngFile
  | .chunkIhdr => .pngChunk
  | .chunkPlte => .pngChunk
  | .chunkIdat => .pngChunk
  | .chunkIend => .pngChunk
  | .chunkOther _ => .pngChunk
  | .ihdrPayload _ _ _ _ _ _ _ => .pngIhdr
  | .ctGray => .pngColor
  | .ctTruecolor => .pngColor
  | .ctIndexed => .pngColor
  | .ctGrayAlpha => .pngColor
  | .ctTruecolorAlpha => .pngColor
  | .ctInvalid _ => .pngColor
  | .filterNone => .pngFilter
  | .filterSub => .pngFilter
  | .filterUp => .pngFilter
  | .filterAverage => .pngFilter
  | .filterPaeth => .pngFilter
  | .filterInvalid _ => .pngFilter
  | .mSoi => .jpegMarker
  | .mEoi => .jpegMarker
  | .mSof0 => .jpegMarker
  | .mSof1 => .jpegMarker
  | .mSof2 => .jpegMarker
  | .mSof3 => .jpegMarker
  | .mSof5 => .jpegMarker
  | .mSof6 => .jpegMarker
  | .mSof7 => .jpegMarker
  | .mSof9 => .jpegMarker
  | .mSof10 => .jpegMarker
  | .mSof11 => .jpegMarker
  | .mSof13 => .jpegMarker
  | .mSof14 => .jpegMarker
  | .mSof15 => .jpegMarker
  | .mDht => .jpegMarker
  | .mDqt => .jpegMarker
  | .mDri => .jpegMarker
  | .mSos => .jpegMarker
  | .mRst _ => .jpegMarker
  | .mOther _ => .jpegMarker
  | .dcCat _ => .jpegDc
  | .dcInvalid _ => .jpegDc
  | .acEob => .jpegAc
  | .acZrl => .jpegAc
  | .acRunsize _ => .jpegAc

end Sys2Proof
end

