-- ==== Sys2Proof/WellFormed.lean ====
section
/-! DEFINITION. Which instructions are well formed: the operand of a row that covers a range or a default
lies in that row's range (30_encoding.md R120). Every other operand is free. -/

namespace Sys2Proof

/-- The four chunk types the hardware acts on (R113). -/
def isNamedChunk (ty : Word) : Bool :=
  ty == 0x49484452#32 || ty == 0x504C5445#32 || ty == 0x49444154#32 || ty == 0x49454E44#32

/-- The colour types of R113: 0, 2, 3, 4, 6. -/
def isColorType (v : Byte) : Bool :=
  v == 0#8 || v == 2#8 || v == 3#8 || v == 4#8 || v == 6#8

/-- A marker code byte that is no marker (`00`, `FF`) or that a row of R114 before `M_OTHER` names:
`C0`..`CF` but `C8` and `CC`, `D0`..`DB`, `DD`. -/
def isNamedMarker (code : Byte) : Bool :=
  code == 0x00#8 || code == 0xFF#8 || code == 0xDD#8 ||
  (decide (0xD0 ≤ code.toNat) && decide (code.toNat ≤ 0xDB)) ||
  (decide (0xC0 ≤ code.toNat) && decide (code.toNat ≤ 0xCF) && code != 0xC8#8 && code != 0xCC#8)

/-- The check of an instruction's operands. -/
def Instr.wellFormed : Instr → Bool
  | .brReset => true
  | .brReadbits => true
  | .brReadbit => true
  | .brReadbitsRev => true
  | .brAlign => true
  | .brReadbytes => true
  | .hufBuild => true
  | .hufBuildFixed => true
  | .hufDecode => true
  | .infDecompress => true
  | .zlbDecompress => true
  | .pngDecode => true
  | .jhufBuild => true
  | .jcReset => true
  | .jcBlock => true
  | .jdqLoad => true
  | .jdqBlock => true
  | .jidctBlock => true
  | .jccPixel => true
  | .jccGray => true
  | .jpegDecode => true
  | .blockStored _ => true
  | .blockFixed _ => true
  | .blockDynamic _ => true
  | .blockReserved _ => true
  | .storedLenNlen _ _ => true
  | .dynCounts _ _ _ => true
  | .clLen _ => true
  | .clRep => true
  | .clZero3 => true
  | .clZero11 => true
  | .lit _ => true
  | .eob => true
  | .len257 => true
  | .len258 => true
  | .len259 => true
  | .len260 => true
  | .len261 => true
  | .len262 => true
  | .len263 => true
  | .len264 => true
  | .len265 => true
  | .len266 => true
  | .len267 => true
  | .len268 => true
  | .len269 => true
  | .len270 => true
  | .len271 => true
  | .len272 => true
  | .len273 => true
  | .len274 => true
  | .len275 => true
  | .len276 => true
  | .len277 => true
  | .len278 => true
  | .len279 => true
  | .len280 => true
  | .len281 => true
  | .len282 => true
  | .len283 => true
  | .len284 => true
  | .len285 => true
  | .lenInvalid _ => true
  | .dist0 => true
  | .dist1 => true
  | .dist2 => true
  | .dist3 => true
  | .dist4 => true
  | .dist5 => true
  | .dist6 => true
  | .dist7 => true
  | .dist8 => true
  | .dist9 => true
  | .dist10 => true
  | .dist11 => true
  | .dist12 => true
  | .dist13 => true
  | .dist14 => true
  | .dist15 => true
  | .dist16 => true
  | .dist17 => true
  | .dist18 => true
  | .dist19 => true
  | .dist20 => true
  | .dist21 => true
  | .dist22 => true
  | .dist23 => true
  | .dist24 => true
  | .dist25 => true
  | .dist26 => true
  | .dist27 => true
  | .dist28 => true
  | .dist29 => true
  | .distInvalid _ => true
  | .fixll0to143 sym => decide (sym.toNat ≤ 143)
  | .fixll144to255 sym => decide (144 ≤ sym.toNat) && decide (sym.toNat ≤ 255)
  | .fixll256to279 sym => decide (256 ≤ sym.toNat) && decide (sym.toNat ≤ 279)
  | .fixll280to287 sym => decide (280 ≤ sym.toNat) && decide (sym.toNat ≤ 287)
  | .fixd0to31 _ => true
  | .zlibHdr _ _ => true
  | .pngSignature => true
  | .chunkIhdr => true
  | .chunkPlte => true
  | .chunkIdat => true
  | .chunkIend => true
  | .chunkOther ty => !isNamedChunk ty
  | .ihdrPayload _ _ _ _ _ _ _ => true
  | .ctGray => true
  | .ctTruecolor => true
  | .ctIndexed => true
  | .ctGrayAlpha => true
  | .ctTruecolorAlpha => true
  | .ctInvalid v => !isColorType v
  | .filterNone => true
  | .filterSub => true
  | .filterUp => true
  | .filterAverage => true
  | .filterPaeth => true
  | .filterInvalid v => decide (5 ≤ v.toNat)
  | .mSoi => true
  | .mEoi => true
  | .mSof0 => true
  | .mSof1 => true
  | .mSof2 => true
  | .mSof3 => true
  | .mSof5 => true
  | .mSof6 => true
  | .mSof7 => true
  | .mSof9 => true
  | .mSof10 => true
  | .mSof11 => true
  | .mSof13 => true
  | .mSof14 => true
  | .mSof15 => true
  | .mDht => true
  | .mDqt => true
  | .mDri => true
  | .mSos => true
  | .mRst _ => true
  | .mOther code => !isNamedMarker code
  | .dcCat t => decide (t.toNat ≤ 11)
  | .dcInvalid t => decide (12 ≤ t.toNat)
  | .acEob => true
  | .acZrl => true
  | .acRunsize rs => rs != 0x00#8 && rs != 0xF0#8

end Sys2Proof
end

