-- ==== Sys2Proof/Decode.lean ====
section
/-! DEFINITION. Decoding: from the value of an element's format to the instruction, total, rejecting by
name; then the encoder, written from the same tables (30_encoding.md R100 to R117); then the byte layouts
of the elements that have one. The value of a format is the number spec/opcode_table.json matches on:
the command code, the 3-bit header in consumption order, a decoded symbol, a fixed code read most
significant bit first, a big-endian field. -/

namespace Sys2Proof

/-- Why a value is no element of its format. -/
inductive Reject where
  /-- A command code not in R101. -/
  | illegalCommand
  /-- A value wider than the format. -/
  | valueTooWide
  /-- A symbol outside its alphabet: code-length above 18, literal/length above 287, distance above 31. -/
  | noSuchSymbol
  /-- A number that is no fixed code of R110. -/
  | noFixedCode
  /-- Not the eight signature bytes (R261). -/
  | notSignature
  /-- Two bytes that are no marker (R362). -/
  | notMarker
  deriving DecidableEq, Repr

/-- Big-endian assembly of two bytes (R11). -/
def be16 (b0 b1 : Byte) : Nat := b0.toNat * 256 + b1.toNat

/-- Big-endian assembly of four bytes (R11). -/
def be32 (b0 b1 b2 b3 : Byte) : Nat :=
  b0.toNat * 16777216 + b1.toNat * 65536 + b2.toNat * 256 + b3.toNat

/-- The command codes (R101). -/
def cmdTable : List (Nat × Instr) :=
  [(0x01, .brReset), (0x02, .brReadbits), (0x03, .brReadbit), (0x04, .brReadbitsRev), (0x05, .brAlign), (0x06, .brReadbytes), (0x10, .hufBuild)] ++
  [(0x11, .hufBuildFixed), (0x12, .hufDecode), (0x20, .infDecompress), (0x30, .zlbDecompress), (0x40, .pngDecode), (0x50, .jhufBuild), (0x51, .jcReset)] ++
  [(0x52, .jcBlock), (0x53, .jdqLoad), (0x54, .jdqBlock), (0x55, .jidctBlock), (0x56, .jccPixel), (0x57, .jccGray), (0x60, .jpegDecode)]

/-- The length codes 257..285, in order (R108). -/
def lengthInstrs : List Instr :=
  [.len257, .len258, .len259, .len260, .len261, .len262, .len263, .len264, .len265, .len266, .len267, .len268, .len269, .len270, .len271] ++
  [.len272, .len273, .len274, .len275, .len276, .len277, .len278, .len279, .len280, .len281, .len282, .len283, .len284, .len285]

/-- The distance codes 0..29, in order (R109). -/
def distInstrs : List Instr :=
  [.dist0, .dist1, .dist2, .dist3, .dist4, .dist5, .dist6, .dist7, .dist8, .dist9, .dist10, .dist11, .dist12, .dist13, .dist14] ++
  [.dist15, .dist16, .dist17, .dist18, .dist19, .dist20, .dist21, .dist22, .dist23, .dist24, .dist25, .dist26, .dist27, .dist28, .dist29]

/-- The marker codes that are rows of their own, by the code byte (R114). -/
def markerTable : List (Nat × Instr) :=
  [(0xD8, .mSoi), (0xD9, .mEoi), (0xC0, .mSof0), (0xC4, .mDht), (0xDB, .mDqt), (0xDD, .mDri), (0xDA, .mSos)] ++
  [(0xC1, .mSof1), (0xC2, .mSof2), (0xC3, .mSof3), (0xC5, .mSof5), (0xC6, .mSof6), (0xC7, .mSof7), (0xC9, .mSof9), (0xCA, .mSof10), (0xCB, .mSof11), (0xCD, .mSof13), (0xCE, .mSof14), (0xCF, .mSof15)]

/-- Block header: `h[0]` is the final flag, `h[2:1]` the type (R104). -/
def decodeBlockHdr (w : Nat) : Except Reject Instr :=
  let final := w % 2 == 1
  if w ≥ 8 then .error .valueTooWide
  else if w / 2 = 0 then .ok (.blockStored final)
  else if w / 2 = 1 then .ok (.blockFixed final)
  else if w / 2 = 2 then .ok (.blockDynamic final)
  else .ok (.blockReserved final)

/-- Stored-block lengths: `LEN` in the low 16 bits, `NLEN` above it, as consumed (R105). -/
def decodeStored (w : Nat) : Except Reject Instr :=
  if w ≥ 2 ^ 32 then .error .valueTooWide
  else .ok (.storedLenNlen (BitVec.ofNat 16 w) (BitVec.ofNat 16 (w / 2 ^ 16)))

/-- Dynamic counts in consumption order: 5 bits `HLIT`, 5 bits `HDIST`, 4 bits `HCLEN` (R106). -/
def decodeDynHdr (w : Nat) : Except Reject Instr :=
  if w ≥ 2 ^ 14 then .error .valueTooWide
  else .ok (.dynCounts (BitVec.ofNat 5 w) (BitVec.ofNat 5 (w / 2 ^ 5)) (BitVec.ofNat 4 (w / 2 ^ 10)))

/-- Code-length symbols (R107). -/
def decodeClen (w : Nat) : Except Reject Instr :=
  if w < 16 then .ok (.clLen (BitVec.ofNat 4 w))
  else if w = 16 then .ok .clRep
  else if w = 17 then .ok .clZero3
  else if w = 18 then .ok .clZero11
  else .error .noSuchSymbol

/-- Literal/length symbols (R108). -/
def decodeLitlen (w : Nat) : Except Reject Instr :=
  if w < 256 then .ok (.lit (BitVec.ofNat 8 w))
  else if w = 256 then .ok .eob
  else match lengthInstrs[w - 257]? with
    | some i => .ok i
    | none => if w = 286 then .ok (.lenInvalid false) else if w = 287 then .ok (.lenInvalid true) else .error .noSuchSymbol

/-- Distance symbols (R109). -/
def decodeDist (w : Nat) : Except Reject Instr :=
  match distInstrs[w]? with
  | some i => .ok i
  | none => if w = 30 then .ok (.distInvalid false) else if w = 31 then .ok (.distInvalid true) else .error .noSuchSymbol

/-- Fixed literal/length codes, as numbers read most significant bit first: 0..23 have 7 bits, 48..199 have
8 bits, 400..511 have 9 bits (R110). -/
def decodeFixedLL (w : Nat) : Except Reject Instr :=
  if w ≤ 0x17 then .ok (.fixll256to279 (BitVec.ofNat 9 (256 + w)))
  else if 0x30 ≤ w ∧ w ≤ 0xBF then .ok (.fixll0to143 (BitVec.ofNat 9 (w - 0x30)))
  else if 0xC0 ≤ w ∧ w ≤ 0xC7 then .ok (.fixll280to287 (BitVec.ofNat 9 (280 + (w - 0xC0))))
  else if 0x190 ≤ w ∧ w ≤ 0x1FF then .ok (.fixll144to255 (BitVec.ofNat 9 (144 + (w - 0x190))))
  else .error .noFixedCode

/-- Fixed distance codes: the code is the symbol (R110). -/
def decodeFixedD (w : Nat) : Except Reject Instr :=
  if w < 32 then .ok (.fixd0to31 (BitVec.ofNat 5 w)) else .error .noFixedCode

/-- The ZLIB header as `BE16(CMF, FLG)` (R112): any two bytes are a header, which R241 then checks. -/
def decodeZlib (w : Nat) : Except Reject Instr :=
  if w ≥ 2 ^ 16 then .error .valueTooWide
  else .ok (.zlibHdr (BitVec.ofNat 8 (w / 256)) (BitVec.ofNat 8 w))

/-- The PNG signature (R261). -/
def decodePngFile (w : Nat) : Except Reject Instr :=
  if w = 0x89504E470D0A1A0A then .ok .pngSignature else .error .notSignature

/-- Chunk types as `BE32` (R113). -/
def decodePngChunk (w : Nat) : Except Reject Instr :=
  if w ≥ 2 ^ 32 then .error .valueTooWide
  else if w = 0x49484452 then .ok .chunkIhdr
  else if w = 0x504C5445 then .ok .chunkPlte
  else if w = 0x49444154 then .ok .chunkIdat
  else if w = 0x49454E44 then .ok .chunkIend
  else .ok (.chunkOther (BitVec.ofNat 32 w))

/-- The 13 payload bytes of IHDR as one big-endian number (R113). -/
def decodePngIhdr (w : Nat) : Except Reject Instr :=
  if w ≥ 2 ^ 104 then .error .valueTooWide
  else .ok (.ihdrPayload (BitVec.ofNat 32 (w / 2 ^ 72)) (BitVec.ofNat 32 (w / 2 ^ 40)) (BitVec.ofNat 8 (w / 2 ^ 32))
    (BitVec.ofNat 8 (w / 2 ^ 24)) (BitVec.ofNat 8 (w / 2 ^ 16)) (BitVec.ofNat 8 (w / 2 ^ 8)) (BitVec.ofNat 8 w))

/-- Colour types (R113). -/
def decodePngColor (w : Nat) : Except Reject Instr :=
  if w ≥ 256 then .error .valueTooWide
  else if w = 0 then .ok .ctGray
  else if w = 2 then .ok .ctTruecolor
  else if w = 3 then .ok .ctIndexed
  else if w = 4 then .ok .ctGrayAlpha
  else if w = 6 then .ok .ctTruecolorAlpha
  else .ok (.ctInvalid (BitVec.ofNat 8 w))

/-- Filter types (R113, R281). -/
def decodePngFilter (w : Nat) : Except Reject Instr :=
  if w ≥ 256 then .error .valueTooWide
  else if w = 0 then .ok .filterNone
  else if w = 1 then .ok .filterSub
  else if w = 2 then .ok .filterUp
  else if w = 3 then .ok .filterAverage
  else if w = 4 then .ok .filterPaeth
  else .ok (.filterInvalid (BitVec.ofNat 8 w))

/-- Markers as `BE16` (R114): `FF` and a code byte that is neither `00` nor `FF` (R362). -/
def decodeJpegMarker (w : Nat) : Except Reject Instr :=
  if w ≤ 0xFF00 ∨ 0xFFFF ≤ w then .error .notMarker
  else match markerTable.lookup (w - 0xFF00) with
    | some i => .ok i
    | none =>
      if 0xFFD0 ≤ w ∧ w ≤ 0xFFD7 then .ok (.mRst (BitVec.ofNat 3 (w - 0xFFD0)))
      else .ok (.mOther (BitVec.ofNat 8 (w - 0xFF00)))

/-- DC symbols (R116, R311). -/
def decodeJpegDc (w : Nat) : Except Reject Instr :=
  if w ≥ 256 then .error .valueTooWide
  else if w ≤ 11 then .ok (.dcCat (BitVec.ofNat 4 w))
  else .ok (.dcInvalid (BitVec.ofNat 8 w))

/-- AC symbols (R116). -/
def decodeJpegAc (w : Nat) : Except Reject Instr :=
  if w ≥ 256 then .error .valueTooWide
  else if w = 0x00 then .ok .acEob
  else if w = 0xF0 then .ok .acZrl
  else .ok (.acRunsize (BitVec.ofNat 8 w))

/-- Host commands (R100, R101). -/
def decodeCmd (w : Nat) : Except Reject Instr :=
  match cmdTable.lookup w with
  | some i => .ok i
  | none => .error .illegalCommand

/-- The decoder: total on any value of any format. -/
def decode : Format → Nat → Except Reject Instr
  | .cmd, w => decodeCmd w
  | .blockHdr, w => decodeBlockHdr w
  | .stored, w => decodeStored w
  | .dynHdr, w => decodeDynHdr w
  | .clen, w => decodeClen w
  | .litlen, w => decodeLitlen w
  | .dist, w => decodeDist w
  | .fixedLL, w => decodeFixedLL w
  | .fixedD, w => decodeFixedD w
  | .zlib, w => decodeZlib w
  | .pngFile, w => decodePngFile w
  | .pngChunk, w => decodePngChunk w
  | .pngIhdr, w => decodePngIhdr w
  | .pngColor, w => decodePngColor w
  | .pngFilter, w => decodePngFilter w
  | .jpegMarker, w => decodeJpegMarker w
  | .jpegDc, w => decodeJpegDc w
  | .jpegAc, w => decodeJpegAc w

/-! The encoder: the value of a well-formed instruction in its own format (`formatOf`). -/

/-- The value the table gives an instruction (R101, R104 to R116). -/
def encode : Instr → Nat
  | .brReset => 0x01
  | .brReadbits => 0x02
  | .brReadbit => 0x03
  | .brReadbitsRev => 0x04
  | .brAlign => 0x05
  | .brReadbytes => 0x06
  | .hufBuild => 0x10
  | .hufBuildFixed => 0x11
  | .hufDecode => 0x12
  | .infDecompress => 0x20
  | .zlbDecompress => 0x30
  | .pngDecode => 0x40
  | .jhufBuild => 0x50
  | .jcReset => 0x51
  | .jcBlock => 0x52
  | .jdqLoad => 0x53
  | .jdqBlock => 0x54
  | .jidctBlock => 0x55
  | .jccPixel => 0x56
  | .jccGray => 0x57
  | .jpegDecode => 0x60
  | .blockStored bfinal => 0 + bfinal.toNat
  | .blockFixed bfinal => 2 + bfinal.toNat
  | .blockDynamic bfinal => 4 + bfinal.toNat
  | .blockReserved bfinal => 6 + bfinal.toNat
  | .storedLenNlen len nlen => len.toNat + nlen.toNat * 2 ^ 16
  | .dynCounts hlit hdist hclen => hlit.toNat + hdist.toNat * 2 ^ 5 + hclen.toNat * 2 ^ 10
  | .clLen v => v.toNat
  | .clRep => 16
  | .clZero3 => 17
  | .clZero11 => 18
  | .lit v => v.toNat
  | .eob => 256
  | .len257 => 257
  | .len258 => 258
  | .len259 => 259
  | .len260 => 260
  | .len261 => 261
  | .len262 => 262
  | .len263 => 263
  | .len264 => 264
  | .len265 => 265
  | .len266 => 266
  | .len267 => 267
  | .len268 => 268
  | .len269 => 269
  | .len270 => 270
  | .len271 => 271
  | .len272 => 272
  | .len273 => 273
  | .len274 => 274
  | .len275 => 275
  | .len276 => 276
  | .len277 => 277
  | .len278 => 278
  | .len279 => 279
  | .len280 => 280
  | .len281 => 281
  | .len282 => 282
  | .len283 => 283
  | .len284 => 284
  | .len285 => 285
  | .lenInvalid second => 286 + second.toNat
  | .dist0 => 0
  | .dist1 => 1
  | .dist2 => 2
  | .dist3 => 3
  | .dist4 => 4
  | .dist5 => 5
  | .dist6 => 6
  | .dist7 => 7
  | .dist8 => 8
  | .dist9 => 9
  | .dist10 => 10
  | .dist11 => 11
  | .dist12 => 12
  | .dist13 => 13
  | .dist14 => 14
  | .dist15 => 15
  | .dist16 => 16
  | .dist17 => 17
  | .dist18 => 18
  | .dist19 => 19
  | .dist20 => 20
  | .dist21 => 21
  | .dist22 => 22
  | .dist23 => 23
  | .dist24 => 24
  | .dist25 => 25
  | .dist26 => 26
  | .dist27 => 27
  | .dist28 => 28
  | .dist29 => 29
  | .distInvalid second => 30 + second.toNat
  | .fixll0to143 sym => 0x30 + sym.toNat
  | .fixll144to255 sym => 0x190 + (sym.toNat - 144)
  | .fixll256to279 sym => sym.toNat - 256
  | .fixll280to287 sym => 0xC0 + (sym.toNat - 280)
  | .fixd0to31 sym => sym.toNat
  | .zlibHdr cmf flg => cmf.toNat * 256 + flg.toNat
  | .pngSignature => 0x89504E470D0A1A0A
  | .chunkIhdr => 0x49484452
  | .chunkPlte => 0x504C5445
  | .chunkIdat => 0x49444154
  | .chunkIend => 0x49454E44
  | .chunkOther type => type.toNat
  | .ihdrPayload width height depth color compression filter interlace => width.toNat * 2 ^ 72 + height.toNat * 2 ^ 40 + depth.toNat * 2 ^ 32 + color.toNat * 2 ^ 24 +
      compression.toNat * 2 ^ 16 + filter.toNat * 2 ^ 8 + interlace.toNat
  | .ctGray => 0
  | .ctTruecolor => 2
  | .ctIndexed => 3
  | .ctGrayAlpha => 4
  | .ctTruecolorAlpha => 6
  | .ctInvalid v => v.toNat
  | .filterNone => 0
  | .filterSub => 1
  | .filterUp => 2
  | .filterAverage => 3
  | .filterPaeth => 4
  | .filterInvalid v => v.toNat
  | .mSoi => 0xFFD8
  | .mEoi => 0xFFD9
  | .mSof0 => 0xFFC0
  | .mSof1 => 0xFFC1
  | .mSof2 => 0xFFC2
  | .mSof3 => 0xFFC3
  | .mSof5 => 0xFFC5
  | .mSof6 => 0xFFC6
  | .mSof7 => 0xFFC7
  | .mSof9 => 0xFFC9
  | .mSof10 => 0xFFCA
  | .mSof11 => 0xFFCB
  | .mSof13 => 0xFFCD
  | .mSof14 => 0xFFCE
  | .mSof15 => 0xFFCF
  | .mDht => 0xFFC4
  | .mDqt => 0xFFDB
  | .mDri => 0xFFDD
  | .mSos => 0xFFDA
  | .mRst n => 0xFFD0 + n.toNat
  | .mOther code => 0xFF00 + code.toNat
  | .dcCat t => t.toNat
  | .dcInvalid t => t.toNat
  | .acEob => 0x00
  | .acZrl => 0xF0
  | .acRunsize rs => rs.toNat

/-- How many bits the value of a format has (R120). -/
def formatBits : Format → Nat
  | .cmd => 8
  | .blockHdr => 3
  | .stored => 32
  | .dynHdr => 14
  | .clen => 5
  | .litlen => 9
  | .dist => 5
  | .fixedLL => 9
  | .fixedD => 5
  | .zlib => 16
  | .pngFile => 64
  | .pngChunk => 32
  | .pngIhdr => 104
  | .pngColor => 8
  | .pngFilter => 8
  | .jpegMarker => 16
  | .jpegDc => 8
  | .jpegAc => 8

/-! Byte layouts: where an element stands in a byte stream from byte 0, bit 0. -/

/-- `n` bytes of a number, least significant first. -/
def leBytes : Nat → Nat → List Byte
  | 0, _ => []
  | n + 1, w => BitVec.ofNat 8 w :: leBytes n (w / 256)

/-- `n` bytes of a number, most significant first. -/
def beBytes (n w : Nat) : List Byte := (leBytes n w).reverse

/-- The `n`-bit reversal of a number: a code written most significant bit first, as `readBits` sees it (R72). -/
def reverseBits : Nat → Nat → Nat
  | 0, _ => 0
  | n + 1, w => w % 2 * 2 ^ n + reverseBits n (w / 2)

/-- The length of a fixed literal/length code, by its value (R110). -/
def fixedLLBits (w : Nat) : Nat :=
  if w ≤ 0x17 then 7 else if w ≤ 0xC7 then 8 else 9

/-- The bytes that put an element of the format at bit 0 of a stream. A decoded symbol has no bytes of its
own: the code that stands for it depends on the tree in use (R111). -/
def layout : Format → Nat → List Byte
  | .cmd, w => leBytes 1 w
  | .blockHdr, w => leBytes 1 w
  | .stored, w => leBytes 4 w
  | .dynHdr, w => leBytes 2 w
  | .clen, _ => []
  | .litlen, _ => []
  | .dist, _ => []
  | .fixedLL, w => leBytes 2 (reverseBits (fixedLLBits w) w)
  | .fixedD, w => leBytes 1 (reverseBits 5 w)
  | .zlib, w => beBytes 2 w
  | .pngFile, w => beBytes 8 w
  | .pngChunk, w => beBytes 4 w
  | .pngIhdr, w => beBytes 13 w
  | .pngColor, w => beBytes 1 w
  | .pngFilter, w => beBytes 1 w
  | .jpegMarker, w => beBytes 2 w
  | .jpegDc, _ => []
  | .jpegAc, _ => []

/-! The opcode table read by number alone. -/

/-- Which format answers for a table word of `nbits` bits. The table's numbers of different formats
coincide (command `01`, filter 1, distance symbol 1), and `nbits` alone cannot tell them apart.
DESIGN CHOICE (log 15): a host command wins; then, for one byte, distance symbols, fixed codes and AC
symbols; for two bytes, literal/length symbols, 9-bit fixed codes, markers, the ZLIB header; for four bytes
the chunk types, and `DEFLATE_STORED` where the upper half is the complement of the lower. The exact bit
counts 3, 5, 9 and 14 name their formats. -/
def tableFormat (nbits w : Nat) : Format :=
  if nbits = 3 then .blockHdr
  else if nbits = 5 then (if 16 ≤ w ∧ w ≤ 18 then .clen else .dist)
  else if nbits ≤ 8 then
    if (cmdTable.lookup w).isSome then .cmd
    else if w < 32 then .dist
    else if 0x30 ≤ w ∧ w ≤ 0xC7 then .fixedLL
    else .jpegAc
  else if nbits = 14 then .dynHdr
  else if nbits ≤ 16 then
    if w < 288 then .litlen
    else if 0x190 ≤ w ∧ w ≤ 0x1FF then .fixedLL
    else if 0xFF00 < w ∧ w < 0xFFFF then .jpegMarker
    else .zlib
  else if nbits ≤ 32 then
    if w / 2 ^ 16 = 0xFFFF - w % 2 ^ 16 then .stored else .pngChunk
  else if nbits ≤ 64 then .pngFile
  else .pngIhdr

/-- The instruction the decoder reads from a table word. -/
def decodeTableWord (nbits w : Nat) : Option Instr :=
  match decode (tableFormat nbits w) w with
  | .ok i => some i
  | .error _ => none

end Sys2Proof
end

