-- ==== Sys2Proof/Machine/Units.lean ====
section
/-! DEFINITION. The register groups of the units, as plain data (10_state.md R24 to R54), the kinds of
failure, and the control point of a running call. Sizes, indexes and counters are `Nat`, raw fields are bit
vectors (log 7). -/

namespace Sys2Proof.Machine

/-- The six failure kinds (60_exceptions.md R400). -/
inductive FailKind where
  | malformedContainer
  | unsupportedFeature
  | truncatedStream
  | invalidCode
  | invalidBackreference
  | invalidTable
  deriving DecidableEq, Repr

/-- Bytes in memory: the cells that differ from what an unlisted address reads as (0), by rising address. -/
abbrev Memory := List Host.Cell

/-- The space BR's buffer is a window of (R24; `IDAT` when PNG calls ZLB, R273). -/
inductive Space where
  | input
  | idat
  deriving DecidableEq, Repr, Inhabited

/-- BR, the bit cursor (R24). -/
structure Br where
  /-- The space of `BR.buf`. -/
  space : Space
  /-- Where `BR.buf` begins in that space. -/
  base : Nat
  /-- `BR.len`. -/
  len : Nat
  /-- `BR.bytePos`. -/
  bytePos : Nat
  /-- `BR.bitPos`. -/
  bitPos : BitVec 3
  deriving DecidableEq, Repr, Inhabited

/-- `T.kind` (R26). -/
inductive NodeKind where
  | internal
  | leaf
  deriving DecidableEq, Repr, Inhabited

/-- One node of a tree arena; `none` is `NIL` (R26). -/
structure Node where
  kind : NodeKind
  left : Option Nat
  right : Option Nat
  sym : Nat
  deriving DecidableEq, Repr, Inhabited

/-- A tree slot (R26): node `i` is the `i`-th of `nodes`, `T.count` is their number. -/
structure Tree where
  nodes : List Node
  valid : Bool
  deriving DecidableEq, Repr, Inhabited

/-- Build scratch of HUF (R29). -/
structure Huf where
  blCount : List Nat
  nextCode : List Nat
  len : List Nat
  nsym : Nat
  deriving DecidableEq, Repr, Inhabited

/-- INF registers (R30, R31). `INF.nlens` is the length of `lens`. `matchLen` and `sym` are the model's:
the pseudocode's local `length` of R216, and the symbol of a fixed code just consumed. -/
structure Inf where
  bfinal : Bool
  btype : BitVec 2
  hlit : Nat
  hdist : Nat
  hclen : Nat
  clLen : List Nat
  lens : List Nat
  storedLen : Half
  storedNlen : Half
  produced : Nat
  wpos : Nat
  matchLen : Nat
  sym : Nat
  deriving DecidableEq, Repr, Inhabited

/-- `INF.*` at the start of a call (R57): all zero. -/
def Inf.init : Inf :=
  { bfinal := false, btype := 0#2, hlit := 0, hdist := 0, hclen := 0, clLen := List.replicate 19 0, lens := [],
    storedLen := 0#16, storedNlen := 0#16, produced := 0, wpos := 0, matchLen := 0, sym := 0 }

/-- ZLB registers (R33). -/
structure Zlb where
  cmf : Byte
  flg : Byte
  expected : Word
  a : Nat
  b : Nat
  deriving DecidableEq, Repr, Inhabited

/-- `ZLB.*` at the start of a call (R33): `a = 1`, the rest zero. -/
def Zlb.init : Zlb := { cmf := 0#8, flg := 0#8, expected := 0#32, a := 1, b := 0 }

/-- One palette entry: red, green, blue (R269). -/
structure Rgb where
  r : Byte
  g : Byte
  b : Byte
  deriving DecidableEq, Repr, Inhabited

/-- PNG registers (R40). `PNG.plte_count` is the length of `plte`. `image` and `row` are the reconstructed
rows so far and the row counter of R275. -/
structure Png where
  pos : Nat
  seenIhdr : Bool
  seenIdat : Bool
  seenPlte : Bool
  width : Word
  height : Word
  bitDepth : Byte
  colorType : Byte
  compression : Byte
  filterMethod : Byte
  interlace : Byte
  chunkLength : Nat
  chunkType : Word
  chunkCrc : Word
  plte : List Rgb
  prev : List Byte
  cur : List Byte
  image : List (List Byte)
  row : Nat
  deriving DecidableEq, Repr, Inhabited

/-- `PNG.*` at the start of a call (R40). -/
def Png.init : Png :=
  { pos := 0, seenIhdr := false, seenIdat := false, seenPlte := false, width := 0#32, height := 0#32,
    bitDepth := 0#8, colorType := 0#8, compression := 0#8, filterMethod := 0#8, interlace := 0#8,
    chunkLength := 0, chunkType := 0#32, chunkCrc := 0#32, plte := [], prev := [], cur := [], image := [], row := 0 }

/-- A frame component (R50). -/
structure FrameComp where
  id : Byte
  h : Nat
  v : Nat
  tq : Nat
  deriving DecidableEq, Repr, Inhabited

/-- A scan component (R50). -/
structure ScanComp where
  cs : Byte
  td : Nat
  ta : Nat
  deriving DecidableEq, Repr, Inhabited

/-- JDEC registers (R50). -/
structure Jdec where
  pos : Nat
  seenSoi : Bool
  seenSof : Bool
  seenSos : Bool
  seenEoi : Bool
  precision : Byte
  height : Nat
  width : Nat
  ncomp : Nat
  comps : List FrameComp
  ns : Nat
  scanComps : List ScanComp
  ss : Nat
  se : Nat
  ah : Nat
  al : Nat
  restartInterval : Nat
  mcuLeft : Nat
  rstNext : Nat
  deriving DecidableEq, Repr, Inhabited

/-- `JDEC.*` at the start of a call (R50): all zero. -/
def Jdec.init : Jdec :=
  { pos := 0, seenSoi := false, seenSof := false, seenSos := false, seenEoi := false, precision := 0#8, height := 0,
    width := 0, ncomp := 0, comps := [], ns := 0, scanComps := [], ss := 0, se := 0, ah := 0, al := 0,
    restartInterval := 0, mcuLeft := 0, rstNext := 0 }

/-- Load scratch of JHUF (R52). -/
structure Jhuf where
  counts : List Nat
  symbols : List Nat
  nsym : Nat
  deriving DecidableEq, Repr, Inhabited

/-- JBR, the JPEG bit source (R54). -/
structure Jbr where
  pos : Nat
  acc : Byte
  cnt : Nat
  deriving DecidableEq, Repr, Inhabited

/-- The locals of a block decode (R310: `c`, `td`, `ta`, `k`) and of the scan loops (R378: `mx`, `my`, `i`,
`bx`, `by`); the scan's `i` is `c`. -/
structure Jc where
  c : Nat
  td : Nat
  ta : Nat
  k : Nat
  mx : Nat
  my : Nat
  bx : Nat
  by_ : Nat
  deriving DecidableEq, Repr, Inhabited

/-- The locals at rest. -/
def Jc.init : Jc := { c := 0, td := 0, ta := 0, k := 0, mx := 0, my := 0, bx := 0, by_ := 0 }

/-- What the running unit fetches next: the control point of the pseudocode (log 1). -/
inductive Point where
  /-- No call is running: the core waits for the host. -/
  | idle
  /-- R191: a block header. -/
  | blockHdr
  /-- R195: `LEN` and `NLEN`. -/
  | stored
  /-- R200: the counts of a dynamic header. -/
  | dynHdr
  /-- R203: a code-length symbol. -/
  | clen
  /-- R210: a literal/length code; a fixed code when `INF.btype = 1`, else a symbol of `T_LL`. -/
  | litlenCode
  /-- R210: the literal/length symbol of the fixed code just consumed. -/
  | litlenSym
  /-- R217: a distance code; a fixed code when `INF.btype = 1`, else a symbol of `T_D`. -/
  | distCode
  /-- R217: the distance symbol of the fixed code just consumed. -/
  | distSym
  /-- R240: the two header bytes. -/
  | zlibHdr
  /-- R261: the signature. -/
  | pngSignature
  /-- R262: a chunk. -/
  | pngChunk
  /-- R265: the payload of IHDR. -/
  | pngIhdr
  /-- R266: the colour type, to check the header. -/
  | pngCheck
  /-- R275: the filter byte of the next row. -/
  | pngRow
  /-- R283: the colour type, to convert the pixels. -/
  | pngConvert
  /-- R361: the first marker. -/
  | jpegSoi
  /-- R362: a marker. -/
  | jpegMarker
  /-- R384: a restart marker. -/
  | jpegRestart
  /-- R310: the DC symbol of a block. -/
  | jpegDc
  /-- R310: an AC symbol of a block. -/
  | jpegAc
  deriving DecidableEq, Repr, Inhabited

/-- Which command the running call is, as far as its end and a failure of it differ. -/
inductive Call where
  /-- A unit command that cannot fail. -/
  | plain
  /-- A BR command or `HUF_DECODE`. -/
  | reader
  /-- `JC_BLOCK` of component `c`. -/
  | block (c : Nat)
  /-- `JDQ_LOAD` of table `t`. -/
  | quantLoad (t : Nat)
  /-- `JDQ_BLOCK`. -/
  | dequant
  /-- `INF_DECOMPRESS`. -/
  | inflate
  /-- `ZLB_DECOMPRESS`. -/
  | zlib
  /-- `PNG_DECODE`. -/
  | png
  /-- `JPEG_DECODE`; `badTable` is the quantization table whose load just failed (R405). -/
  | jpeg (badTable : Option Nat)
  deriving DecidableEq, Repr, Inhabited

/-- The unit buffers the host may reach between calls (30_encoding.md R102). -/
inductive HostBuf where
  | coef
  | dq
  | samp
  | pred
  | qt
  | qtDef
  | qtPrec
  deriving DecidableEq, Repr

/-- What the host does between calls (60_exceptions.md R416, R422). -/
inductive HostOp where
  /-- Write control register `no` (R22); writing register 0 starts a call. -/
  | writeReg (no : Nat) (v : Word)
  /-- Read control register `no` (R22). -/
  | readReg (no : Nat)
  /-- Place a byte of the input buffer (R89). -/
  | writeInput (index : Word) (v : Byte)
  /-- Read element `index` of a unit buffer (R102). -/
  | readBuf (buf : HostBuf) (index : Nat)
  /-- Write element `index` of a unit buffer (R102). -/
  | writeBuf (buf : HostBuf) (index : Nat) (v : Int)
  /-- Read byte `index` of `OUT` (R32). -/
  | readOut (index : Nat)
  /-- Assert reset (R422, R440). -/
  | reset
  deriving DecidableEq, Repr

end Sys2Proof.Machine
end

