-- ==== Sys2Proof/Config.lean ====
section
/-! DEFINITION. The parameters of the codec core (00_scope.md R7, R8) and the free values: constants with no
body, so that nothing can be proved of what they are. The first argument of a free value is the number of
the draw (`State.draws`). -/

namespace Sys2Proof.Config

open Sys2Proof.Machine

/-- `WSIZE`: capacity of the window and largest distance (R7). -/
abbrev windowSize : Nat := 32768

/-- `MAXBITS`: longest DEFLATE code (R7). -/
abbrev maxBits : Nat := 15

/-- `JMAXBITS`: longest JPEG code (R7). -/
abbrev jpegMaxBits : Nat := 16

/-- `ADLER_MOD` (R7). -/
abbrev adlerMod : Nat := 65521

/-- `DC_CAT_MAX` (R7). -/
abbrev dcCategoryMax : Nat := 11

/-- `LEVEL_SHIFT` (R7). -/
abbrev levelShift : Int := 128

/-- `IDCT_FRAC` (R8, D35). -/
abbrev idctFrac : Nat := 13

/-- `CC_FRAC` (R8, D37). -/
abbrev colorFrac : Nat := 16

/-- `CC_TOL` (R8, D37). -/
abbrev colorTolerance : Int := 1

/-- FREE VALUE (log 6): `RES_LEN` when the number of output bytes does not fit its 32 bits. -/
opaque resLenOverflow : Nat → Word

/-- FREE VALUE (log 17): the diagnostic string after a failure (R22, U9). -/
opaque diag : Nat → List Byte

/-- FREE VALUE (log 5): a result register after a failure (R403, U12), by its control register number. -/
opaque result : Nat → Nat → Word

/-- FREE VALUE (log 5): a byte sequence after a failure (R405): 0 `OUT`, 1 `IDAT`, 2 `RAW`. -/
opaque bytes : Nat → Nat → List Byte

/-- FREE VALUE (log 5): byte `i` of a memory after a failure (R405): memory 0 `WIN`, 1 to 3 `PLANE[0..2]`. -/
opaque memByte : Nat → Nat → Nat → Byte

/-- FREE VALUE (log 5): how many bytes a plane holds after a failure (R405). -/
opaque planeSize : Nat → Nat → Nat

/-- FREE VALUE (log 5, log 30): the BR cursor after a failure (R147, R405) or a whole-stream call (R443). -/
opaque br : Nat → Br

/-- FREE VALUE (log 5, log 30): the JBR cursor after a failure (R316, R405) or `JPEG_DECODE` (R443). -/
opaque jbr : Nat → Jbr

/-- FREE VALUE (log 5): a tree slot after a failure, by slot number (R405). -/
opaque tree : Nat → Nat → Tree

/-- FREE VALUE (log 16): the build scratch of HUF outside a build (R29). -/
opaque huf : Nat → Huf

/-- FREE VALUE (log 16): the load scratch of JHUF outside a build (R57). -/
opaque jhuf : Nat → Jhuf

/-- FREE VALUE (log 5): `INF.*` after a failure (R405). -/
opaque inf : Nat → Inf

/-- FREE VALUE (log 5): `ZLB.*` after a failure (R405). -/
opaque zlb : Nat → Zlb

/-- FREE VALUE (log 5): `PNG.*` after a failure (R405). -/
opaque png : Nat → Png

/-- FREE VALUE (log 5): `JDEC.*` after a failure (R405). -/
opaque jdec : Nat → Jdec

/-- FREE VALUE (log 5): `PRED[c]` after a failure (R316, R405). -/
opaque pred : Nat → Nat → Int

/-- FREE VALUE (log 5): `COEF[k]` after a failure (R316, R405). -/
opaque coef : Nat → Nat → Int

/-- FREE VALUE (log 5): `DQ[k]` after a failure (R405). -/
opaque dq : Nat → Nat → Half

/-- FREE VALUE (log 5): a sample of `SAMP` after a failure, by `8*y + x` (R405). -/
opaque samp : Nat → Nat → Byte

/-- FREE VALUE (log 5): `QT[t][k]` after a failure (R405). -/
opaque qt : Nat → Nat → Nat → Half

/-- FREE VALUE (log 5): `QT_def[t]` after a failed JPEG call (R405, U11). -/
opaque qtDef : Nat → Nat → Bool

/-- FREE VALUE (log 5): `QT_prec[t]` after a failed JPEG call (R405, U11). -/
opaque qtPrec : Nat → Nat → Bool

end Sys2Proof.Config
end

