-- ==== Sys2Proof/Machine/Checks.lean ====
section
/-! DEFINITION. The two checksums: CRC-32 with its table (44_png.md R263) and Adler-32 (43_zlib.md R246). -/

namespace Sys2Proof.Machine

/-- `n` rounds of the reflected polynomial (R263). -/
def crcRounds : Nat → Word → Word
  | 0, c => c
  | n + 1, c => crcRounds n (if c.getLsbD 0 then 0xEDB88320#32 ^^^ (c >>> 1) else c >>> 1)

/-- The table of R263: `CRC_T[n]`. -/
def crcTable : List Word :=
  (List.range 256).map fun n => crcRounds 8 (BitVec.ofNat 32 n)

/-- One byte of the CRC (R263), with the table `t`. -/
def crcByte (t : List Word) (c : Word) (v : Byte) : Word :=
  t.getD ((c ^^^ v.setWidth 32) &&& 0xFF#32).toNat 0#32 ^^^ (c >>> 8)

/-- `crc32(bytes)` with the table `t` (R263). -/
def crc32 (t : List Word) (bytes : List Byte) : Word :=
  bytes.foldl (crcByte t) 0xFFFFFFFF#32 ^^^ 0xFFFFFFFF#32

/-- The two Adler sums after the bytes (R246). -/
def adlerSums : List Byte → Nat → Nat → Nat × Nat
  | [], a, b => (a, b)
  | v :: rest, a, b =>
    let a' := (a + v.toNat) % Config.adlerMod
    adlerSums rest a' ((b + a') % Config.adlerMod)

/-- The Adler-32 value `(b << 16) | a` (R246). -/
def adlerValue (sums : Nat × Nat) : Nat := sums.2 * 65536 + sums.1

end Sys2Proof.Machine
end

