-- ==== Sys2Proof/Machine/Trees.lean ====
section
/-! DEFINITION. Canonical tree builds: the DEFLATE build from code lengths (41_huffman.md R160 to R169) and
the JPEG build from counts and a symbol list (45_jpeg_entropy.md R300 to R303), over the arena of
10_state.md R26. -/

namespace Sys2Proof.Machine

/-- A fresh internal node: both child slots empty. -/
def emptyNode : Node := { kind := .internal, left := none, right := none, sym := 0 }

/-- A leaf carrying `s`. -/
def leafNode (s : Nat) : Node := { kind := .leaf, left := none, right := none, sym := s }

/-- The child of node `n` on bit `b` (0 left, 1 right); `none` is a missing child. A node number outside the
arena, which no build produces, has no children. -/
def childOf (nodes : List Node) (n : Nat) (b : Bool) : Option Nat :=
  match nodes[n]? with
  | some node => if b then node.right else node.left
  | none => none

/-- Link child `c` to node `n` on bit `b`. -/
def linkChild (nodes : List Node) (n : Nat) (b : Bool) (c : Nat) : List Node :=
  match nodes[n]? with
  | some node => nodes.set n (if b then { node with right := some c } else { node with left := some c })
  | none => nodes

/-- `insert(T, c, L, s)` of R163 from node `n`: the `L` low bits of `c`, most significant first. -/
def insertCode (nodes : List Node) (n c : Nat) : Nat → Nat → List Node
  | 0, _ => nodes
  | i + 1, s =>
    match childOf nodes n (c.testBit i) with
    | some child => insertCode nodes child c i s
    | none =>
      insertCode (linkChild (nodes ++ [if i = 0 then leafNode s else emptyNode]) n (c.testBit i) nodes.length)
        nodes.length c i s

/-- Step 1 of R162: how many symbols have length `b`; element 0 is forced to 0. -/
def blCount (lens : List Nat) (b : Nat) : Nat :=
  if b = 0 then 0 else lens.countP (· == b)

/-- Step 2 of R162: the first code of each length. -/
def firstCode (lens : List Nat) : Nat → Nat
  | 0 => 0
  | b + 1 => (firstCode lens b + blCount lens b) * 2

/-- The table `HUF.next_code` before step 3, for lengths `0..m` (R162). -/
def firstCodes (lens : List Nat) (m : Nat) : List Nat :=
  (List.range (m + 1)).map (firstCode lens)

/-- Step 3 of R163: give each used symbol, in index order, the next code of its length. -/
def assignCodes : List Nat → Nat → List Nat → List Node → List Node
  | [], _, _, nodes => nodes
  | l :: rest, s, next, nodes =>
    if l = 0 then assignCodes rest (s + 1) next nodes
    else assignCodes rest (s + 1) (next.set l (next.getD l 0 + 1)) (insertCode nodes 0 (next.getD l 0) l s)

/-- `build(T, len, N, M)`: the arena of the code-length array `lens` (R162, R163). -/
def buildNodes (lens : List Nat) (m : Nat) : List Node :=
  assignCodes lens 0 (firstCodes lens m) [emptyNode]

/-- A built tree, `valid` set. -/
def buildTree (lens : List Nat) (m : Nat) : Tree := { nodes := buildNodes lens m, valid := true }

/-- The Kraft sum of R164, scaled by `2^m`. -/
def kraftSum (lens : List Nat) (m : Nat) : Nat :=
  (lens.map fun l => if l = 0 then 0 else 2 ^ (m - l)).sum

/-- `admitted(len, N, M)` of R164: no length above `m`, and not over-subscribed. -/
def admitted (lens : List Nat) (m : Nat) : Bool :=
  lens.all (fun l => decide (l ≤ m)) && decide (kraftSum lens m ≤ 2 ^ m)

/-- The code-length array of `T_FIXLL` (R166). -/
def fixedLitLengths : List Nat :=
  List.replicate 144 8 ++ List.replicate 112 9 ++ List.replicate 24 7 ++ List.replicate 8 8

/-- The code-length array of `T_FIXD` (R167). -/
def fixedDistLengths : List Nat := List.replicate 32 5

/-- `T_FIXLL` (R166). -/
def fixedLitTree : Tree := buildTree fixedLitLengths Config.maxBits

/-- `T_FIXD` (R167). -/
def fixedDistTree : Tree := buildTree fixedDistLengths Config.maxBits

/-- `count` codes of one length `l` from `code` on, for the symbols at the head of the list: the nodes, the next
code and the symbols left (R302). -/
def jAssignLength : Nat → Nat → Nat → List Nat → List Node → List Node × Nat × List Nat
  | 0, _, code, syms, nodes => (nodes, code, syms)
  | _ + 1, _, code, [], nodes => (nodes, code, [])
  | count + 1, l, code, s :: syms, nodes =>
    jAssignLength count l (code + 1) syms (insertCode nodes 0 code l s)

/-- The loop over the lengths `l, l+1, ...` of R302. -/
def jAssign : List Nat → Nat → Nat → List Nat → List Node → List Node
  | [], _, _, _, nodes => nodes
  | count :: rest, l, code, syms, nodes =>
    let (nodes', code', syms') := jAssignLength count l code syms nodes
    jAssign rest (l + 1) (code' * 2) syms' nodes'

/-- `jbuild(T)`: the arena of the counts for lengths 1..16 and the symbol list (R302). -/
def jbuildTree (counts syms : List Nat) : Tree :=
  { nodes := jAssign counts 1 0 syms [emptyNode], valid := true }

/-- The sum of R303 over the lengths `l, l+1, ...`. -/
def jkraft : List Nat → Nat → Nat
  | [], _ => 0
  | count :: rest, l => count * 2 ^ (Config.jpegMaxBits - l) + jkraft rest (l + 1)

/-- `admitted(counts)` of R303. -/
def jadmitted (counts : List Nat) : Bool :=
  decide (jkraft counts 1 ≤ 2 ^ Config.jpegMaxBits) && decide (counts.sum ≤ 256)

end Sys2Proof.Machine
end

