-- ==== Sys2Proof/Machine/State.lean ====
section
/-! DEFINITION. The architectural state of one codec core (10_state.md), the reasons a step can stop, and the
state after reset (70_reset_and_hazards.md R440, 10_state.md R57). Plain data throughout. -/

namespace Sys2Proof.Machine

/-- The one way the model stops that the spec does not name: it stands for states no run reaches. -/
inductive Fault where
  /-- Raised by an element that ends a call when no call that such an element can end is running
  (`State.running`); no run from reset reaches such a state. Safe: the model stops. -/
  | noRunningCall
  deriving DecidableEq, Repr

/-- The refusals of 60_exceptions.md R411: the spec gives the step no meaning. Each is safe: nothing can be
proved about a run that contains it. -/
inductive Refusal where
  /-- Raised by `exec` for an instruction the model has no meaning for. Safe. -/
  | notModelled (mnemonic : String)
  /-- Raised by `step` when the host writes a code outside R101 to `CMD` (U2). Safe. -/
  | illegalCommand
  /-- Raised by a command while a call is running (U16). Safe. -/
  | commandWhileBusy
  /-- Raised by a cursor-using unit command after a failed cursor-using command (U5). Safe. -/
  | cursorAfterFailure
  /-- Raised by `BR_READBITS` and `BR_READBITS_REV` for a count outside 1..32 (U3). Safe. -/
  | bitCountOutOfRange
  /-- Raised by a unit command whose operands or input length are outside the stated range (U8). Safe. -/
  | operandOutOfRange
  /-- Raised by a decode from a slot whose `valid` is 0, or one `HUF_DECODE` cannot name (U4). Safe. -/
  | treeNotValid
  /-- Raised by a build from an array or a count list that is not admitted (U1). Safe. -/
  | lengthsNotAdmitted
  /-- Raised by `step` when a decoded symbol is no element of its alphabet; a built tree carries none. Safe. -/
  | noSuchElement (why : Reject)
  /-- Raised by `step` for a control register number outside 0..12 (U6). Safe. -/
  | noSuchRegister
  /-- Raised by `step` for a host write to a read-only register (U6). Safe. -/
  | readOnlyRegister
  /-- Raised by `step` for a host read of a host-write register: 0 and 4 to 7 (R22, R416). Safe. -/
  | writeOnlyRegister
  /-- Raised by `step` for a host access outside R102: a buffer not readable or not writable, an index or a
  value outside the buffer's range. Safe. -/
  | hostAccess
  deriving DecidableEq, Repr

/-- The state of one core. -/
structure State where
  /-- `CMD` (R22). -/
  cmd : Byte
  /-- `STATUS` (R22). -/
  status : Byte
  /-- `ERRKIND` (R22). -/
  errkind : Byte
  /-- `DIAG` (R22). -/
  diag : List Byte
  /-- `ARG0` (R22). -/
  arg0 : Word
  /-- `ARG1` (R22). -/
  arg1 : Word
  /-- `IN_BASE` (R22). -/
  inBase : Word
  /-- `IN_LEN` (R22). -/
  inLen : Word
  /-- `RES_VALUE` (R22). -/
  resValue : Word
  /-- `RES_WIDTH` (R22). -/
  resWidth : Word
  /-- `RES_HEIGHT` (R22). -/
  resHeight : Word
  /-- `RES_CHANNELS` (R22). -/
  resChannels : Byte
  /-- `RES_LEN` (R22). -/
  resLen : Word
  /-- `IN` (R70, R71): the input buffer, by index. -/
  input : Memory
  /-- `OUT` (R32). -/
  out : List Byte
  /-- `IDAT` (R40). -/
  idat : List Byte
  /-- `RAW` (R40). -/
  raw : List Byte
  /-- `WIN` (R31). -/
  win : Memory
  /-- BR (R24). -/
  br : Br
  /-- No cursor-using command has failed since the BR cursor was last set (R103, R407). -/
  brLive : Bool
  /-- Slot 0 (R28). -/
  tFixLL : Tree
  /-- Slot 1 (R28). -/
  tFixD : Tree
  /-- Slot 2 (R28). -/
  tCl : Tree
  /-- Slot 3 (R28). -/
  tLl : Tree
  /-- Slot 4 (R28). -/
  tD : Tree
  /-- Slot 5 (R28). -/
  tUser : Tree
  /-- Slots 8..11 (R28). -/
  jdc : List Tree
  /-- Slots 12..15 (R28). -/
  jac : List Tree
  /-- HUF scratch (R29). -/
  huf : Huf
  /-- INF registers (R30, R31). -/
  inf : Inf
  /-- ZLB registers (R33). -/
  zlb : Zlb
  /-- PNG registers (R40). -/
  png : Png
  /-- `CRC_T` (R41). -/
  crcT : List Word
  /-- JDEC registers (R50). -/
  jdec : Jdec
  /-- `QT[t][k]` (R51). -/
  qt : List (List Nat)
  /-- `QT_prec[t]` (R51). -/
  qtPrec : List Bool
  /-- `QT_def[t]` (R51). -/
  qtDef : List Bool
  /-- JHUF scratch (R52). -/
  jhuf : Jhuf
  /-- `PRED[c]` (R53). -/
  pred : List Int
  /-- `COEF[k]` (R53). -/
  coef : List Int
  /-- `DQ[k]` (R53). -/
  dq : List Int
  /-- `SAMP[y][x]` at `8*y + x` (R53). -/
  samp : List Byte
  /-- `PLANE[c]` (R53), row by row. -/
  plane : List Memory
  /-- JBR (R54). -/
  jbr : Jbr
  /-- No cursor-using command has failed since the JBR cursor was last set (R103, R407). -/
  jbrLive : Bool
  /-- Locals of the block decode and of the scan loops (R310, R378). -/
  jc : Jc
  /-- The model's own: what is fetched next. -/
  point : Point
  /-- The model's own: the running call. -/
  running : Option Call
  /-- The model's own: how many free draws have been made (log 5). -/
  draws : Nat
  /-- The model's own: the host operations to come (log 2). -/
  host : List HostOp
  /-- The model's own: what the host's reads returned, in order (log 2). -/
  hostRead : List Int
  deriving DecidableEq, Repr

/-- A tree slot that holds no tree. -/
def Tree.absent : Tree := { nodes := [], valid := false }

/-- The state after reset (R440). Registers the rule leaves unspecified hold the values of log 4. -/
def State.reset : State :=
  { cmd := 0#8, status := 0#8, errkind := 0#8, diag := [], arg0 := 0#32, arg1 := 0#32, inBase := 0#32, inLen := 0#32,
    resValue := 0#32, resWidth := 0#32, resHeight := 0#32, resChannels := 0#8, resLen := 0#32,
    input := [], out := [], idat := [], raw := [], win := [],
    br := { space := .input, base := 0, len := 0, bytePos := 0, bitPos := 0#3 }, brLive := true,
    tFixLL := fixedLitTree, tFixD := fixedDistTree, tCl := .absent, tLl := .absent, tD := .absent, tUser := .absent,
    jdc := List.replicate 4 .absent, jac := List.replicate 4 .absent,
    huf := { blCount := List.replicate 17 0, nextCode := List.replicate 17 0, len := List.replicate 288 0, nsym := 0 },
    inf := .init, zlb := .init, png := .init, crcT := crcTable, jdec := .init,
    qt := List.replicate 4 (List.replicate 64 0), qtPrec := List.replicate 4 false, qtDef := List.replicate 4 false,
    jhuf := { counts := List.replicate 16 0, symbols := List.replicate 256 0, nsym := 0 },
    pred := List.replicate 3 0, coef := List.replicate 64 0, dq := List.replicate 64 0, samp := List.replicate 64 0#8,
    plane := List.replicate 3 [], jbr := { pos := 0, acc := 0#8, cnt := 0 }, jbrLive := true, jc := .init,
    point := .idle, running := none, draws := 0, host := [], hostRead := [] }

end Sys2Proof.Machine
end

