-- ==== Sys2Proof/Machine/Flags.lean ====
section
/-! DEFINITION. The hardware has no arithmetic condition codes (10_state.md R55): its flags are `STATUS.state`,
`ERRKIND`, the `valid` bits of the tree slots, `QT_def` and the `seen_*` bits. This file computes them. -/

namespace Sys2Proof.Machine

/-- `STATUS` holding state `IDLE` (R22). -/
abbrev statusIdle : Byte := 0#8

/-- `STATUS` holding state `OK` (R22). -/
abbrev statusOk : Byte := 1#8

/-- `STATUS` holding state `FAILED` (R22). -/
abbrev statusFailed : Byte := 2#8

/-- `STATUS` holding state `BUSY` (R22). -/
abbrev statusBusy : Byte := 3#8

/-- The code of a failure kind (60_exceptions.md R400). -/
def FailKind.code : FailKind → Byte
  | .malformedContainer => 1#8
  | .unsupportedFeature => 2#8
  | .truncatedStream => 3#8
  | .invalidCode => 4#8
  | .invalidBackreference => 5#8
  | .invalidTable => 6#8

/-- The JPEG tree slot `n` of 8..15, if `n` is one (R28). -/
def jpegSlot (s : State) (n : Nat) : Option Tree :=
  if 8 ≤ n ∧ n < 12 then s.jdc[n - 8]?
  else if 12 ≤ n ∧ n < 16 then s.jac[n - 12]?
  else none

/-- Write the JPEG tree slot `n` of 8..15 (R28). -/
def setJpegSlot (s : State) (n : Nat) (t : Tree) : State :=
  if n < 12 then { s with jdc := s.jdc.set (n - 8) t } else { s with jac := s.jac.set (n - 12) t }

/-- The slots `HUF_DECODE` can name: 0, 1 and 5 (R170). -/
def userSlot (s : State) (n : Nat) : Option Tree :=
  if n = 0 then some s.tFixLL else if n = 1 then some s.tFixD else if n = 5 then some s.tUser else none

/-- `T.valid <- 0`; the content stays (R442). -/
def Tree.invalidate (t : Tree) : Tree := { t with valid := false }

/-- `QT_def[t]` (R51). -/
def quantDefined (s : State) (t : Nat) : Bool := s.qtDef.getD t false

/-- `JDC[t].valid` (R52). -/
def dcValid (s : State) (t : Nat) : Bool := (s.jdc.getD t .absent).valid

/-- `JAC[t].valid` (R52). -/
def acValid (s : State) (t : Nat) : Bool := (s.jac.getD t .absent).valid

end Sys2Proof.Machine
end

