-- ==== Sys2Proof/Machine/Ops.lean ====
section
/-! DEFINITION. The named operations over memory and registers: cell memory, the start of a call
(70_reset_and_hazards.md R442), its end (60_exceptions.md R403), and the failure of a call, which is this
machine's exception entry (R403, R405, R406). There is no return from a failure (R407). -/

namespace Sys2Proof.Machine

/-- What a meaning answers. -/
abbrev Out := Host.Outcome State Fault Refusal

/-! Memory: cells by rising address, no cell holding 0, which is what an unlisted address reads as (log 3). -/

/-- The byte at an address. -/
def Memory.read : Memory → Nat → Byte
  | [], _ => 0#8
  | (b, v) :: rest, a => if b = a then v else Memory.read rest a

/-- Put a cell in its place; a cell of value 0 is left out. -/
def Memory.write : Memory → Nat → Byte → Memory
  | [], a, v => if v = 0#8 then [] else [(a, v)]
  | (b, w) :: rest, a, v =>
    if a < b then (if v = 0#8 then (b, w) :: rest else (a, v) :: (b, w) :: rest)
    else if a = b then (if v = 0#8 then rest else (a, v) :: rest)
    else (b, w) :: Memory.write rest a v

/-- Every cell lies at `lo` or above, addresses rise, and no cell holds 0. -/
def Memory.wfFrom : Nat → Memory → Bool
  | _, [] => true
  | lo, (a, v) :: rest => decide (lo ≤ a) && (v != 0#8) && Memory.wfFrom (a + 1) rest

/-- The canonical form of a memory. -/
def Memory.wf (m : Memory) : Bool := Memory.wfFrom 0 m

/-- The memory whose addresses below `n` hold `f`, in canonical form. -/
def Memory.ofFn (f : Nat → Byte) (n : Nat) : Memory :=
  (List.range n).filterMap fun a => if f a = 0#8 then none else some (a, f a)

/-- Write a run of bytes from an address on. -/
def Memory.writeAll (m : Memory) (a : Nat) : List Byte → Memory
  | [] => m
  | v :: rest => Memory.writeAll (Memory.write m a v) (a + 1) rest

/-- Byte `i` of the input buffer (R70). -/
def inByte (s : State) (i : Nat) : Byte := Memory.read s.input i

/-- `IN_LEN` as a number (R23). -/
def inLength (s : State) : Nat := s.inLen.toNat

/-- The input bytes `IN[i .. i+n)` (R11). -/
def inBytes (s : State) (i n : Nat) : List Byte :=
  (List.range n).map fun k => inByte s (i + k)

/-- A 32-bit result of a count: the count where it fits, a free value where it does not (log 6). -/
def resLenOf (n : Nat) : Word :=
  if n < 2 ^ 32 then BitVec.ofNat 32 n else Config.resLenOverflow n

/-! Start and end of a call. -/

/-- The first two lines of R442: every command. -/
def beginCall (c : Call) (s : State) : State :=
  { s with
    status := statusBusy, errkind := 0#8, diag := [], resValue := 0#32, resWidth := 0#32, resHeight := 0#32,
    resChannels := 0#8, resLen := 0#32, out := [], running := some c }

/-- BR bound to a window, cursor at its start (R25, R244). -/
def bindBr (space : Space) (base len : Nat) (s : State) : State :=
  { s with br := { space := space, base := base, len := len, bytePos := 0, bitPos := 0#3 }, brLive := true }

/-- What R442 adds for the whole-stream commands. DESIGN CHOICE (log 29): `WIN`, `QT`, `COEF`, `DQ`, `SAMP` and
`PLANE`, which 10_state.md R57 calls unspecified at the start of a call, keep what they held. -/
def beginStream (c : Call) (s : State) : State :=
  { bindBr .input 0 (inLength s) (beginCall c s) with
    tCl := s.tCl.invalidate, tLl := s.tLl.invalidate, tD := s.tD.invalidate, inf := .init, zlb := .init }

/-- Success of the outermost call (R403); the results are written before. A unit command has no state of its own
to discard: its cursor and tables persist (R103, R441). -/
def endOk (s : State) : State :=
  { s with status := statusOk, errkind := 0#8, point := .idle, running := none }

/-! What a whole-stream call discards when it ends well (70_reset_and_hazards.md R443; log 30). -/

/-- The DEFLATE trees, which live for one block (R28). -/
def dropInflateTrees (s : State) : State :=
  { s with tCl := s.tCl.invalidate, tLl := s.tLl.invalidate, tD := s.tD.invalidate }

/-- The tables of a JPEG file, which live for one `JPEG_DECODE` (R28). -/
def dropJpegTrees (s : State) : State :=
  { s with jdc := s.jdc.map Tree.invalidate, jac := s.jac.map Tree.invalidate }

/-- A cursor cut to a window of `IN` as R24 allows it. -/
def cutToInput (len : Nat) (b : Br) : Br :=
  let base := min b.base len
  let size := min b.len (len - base)
  let pos := min b.bytePos size
  { space := .input, base := base, len := size, bytePos := pos, bitPos := if pos < size then b.bitPos else 0#3 }

/-- BR holds some window of `IN` and some place in it: a free value (R24, R71). -/
def discardBr (s : State) : State := { s with br := cutToInput (inLength s) (Config.br s.draws), draws := s.draws + 1 }

/-- JBR holds some place in `IN` and at most 8 bits: a free value (R54, R71). -/
def discardJbr (s : State) : State :=
  let j := Config.jbr s.draws
  { s with jbr := { j with pos := min j.pos (inLength s), cnt := min j.cnt 8 }, draws := s.draws + 1 }

/-- Success of a call that ran INF alone; its cursor stays at the bit after the final block (R220, R103). -/
def endInflate (s : State) : State := endOk (dropInflateTrees s)

/-- Success of a call that handed BR a body of its own: ZLB (R244) or PNG (R273). -/
def endZlib (s : State) : State := endOk (discardBr (dropInflateTrees s))

/-- Success of `JPEG_DECODE`. -/
def endJpeg (s : State) : State := endOk (discardJbr (discardBr (dropJpegTrees s)))

/-- A command is taken only when no call is running (R22, R100). -/
def whenIdle (s : State) (k : Out) : Out :=
  if s.point = .idle ∧ s.status ≠ statusBusy then k else .refused .commandWhileBusy

/-! Failure of a call. What the failed call could have written is unspecified afterwards (R405): each such piece
becomes a free value of the draw `n`. -/

/-- The BR cursor is unspecified (R147). -/
def forgetBr (n : Nat) (s : State) : State := { s with br := Config.br n }

/-- The JBR cursor and the block locals are unspecified (R316). -/
def forgetJbr (n : Nat) (s : State) : State := { s with jbr := Config.jbr n }

/-- What `INF_DECOMPRESS` writes, `ZLB.*` at its start among it (R442). -/
def forgetInflate (n : Nat) (s : State) : State :=
  { forgetBr n s with
    tCl := Config.tree n 2, tLl := Config.tree n 3, tD := Config.tree n 4, huf := Config.huf n, inf := Config.inf n,
    zlb := Config.zlb n, win := Memory.ofFn (Config.memByte n 0) Config.windowSize }

/-- What `ZLB_DECOMPRESS` writes. -/
def forgetZlib (n : Nat) (s : State) : State := forgetInflate n s

/-- What `PNG_DECODE` writes. -/
def forgetPng (n : Nat) (s : State) : State :=
  { forgetZlib n s with png := Config.png n, idat := Config.bytes n 1, raw := Config.bytes n 2 }

/-- 64 values of a free function. -/
def draw64 {α : Type} (f : Nat → α) : List α := (List.range 64).map f

/-- What `JC_BLOCK` of component `c` writes (R316). -/
def forgetBlock (n c : Nat) (s : State) : State :=
  { forgetJbr n s with coef := draw64 (Config.coef n), pred := s.pred.set c (Config.pred n c) }

/-- `QT[t]` is unspecified. -/
def forgetQuant (n t : Nat) (s : State) : State :=
  { s with qt := s.qt.set t (draw64 fun k => (Config.qt n t k).toNat) }

/-- `DQ` is unspecified. -/
def forgetDq (n : Nat) (s : State) : State := { s with dq := draw64 fun k => (Config.dq n k).toInt }

/-- What `JPEG_DECODE` writes; `QT_def` of a table whose load failed is 0 (R405, U11). -/
def forgetJpeg (n : Nat) (bad : Option Nat) (s : State) : State :=
  { forgetZlib n s with
    jbr := Config.jbr n, jdec := Config.jdec n, jhuf := Config.jhuf n,
    jdc := (List.range 4).map fun t => Config.tree n (8 + t),
    jac := (List.range 4).map fun t => Config.tree n (12 + t),
    qt := (List.range 4).map fun t => draw64 fun k => (Config.qt n t k).toNat,
    qtPrec := (List.range 4).map (Config.qtPrec n),
    qtDef := (List.range 4).map fun t => if bad = some t then false else Config.qtDef n t,
    pred := (List.range 3).map (Config.pred n), coef := draw64 (Config.coef n),
    dq := draw64 fun k => (Config.dq n k).toInt, samp := draw64 (Config.samp n),
    plane := (List.range 3).map fun c => Memory.ofFn (Config.memByte n (c + 1)) (Config.planeSize n c) }

/-- The state the failing call could have written, by the call (R405). -/
def forgetCall (n : Nat) (c : Call) (s : State) : State :=
  match c with
  | .plain => s
  | .reader => forgetBr n s
  | .block c => forgetBlock n c s
  | .quantLoad t => forgetQuant n t s
  | .dequant => forgetDq n s
  | .inflate => forgetInflate n s
  | .zlib => forgetZlib n s
  | .png => forgetPng n s
  | .jpeg bad => forgetJpeg n bad s

/-- Whether a command uses a stream cursor, so that its failure closes both cursors to unit commands
(R103, R407; log 8). -/
def Call.usesCursor : Call → Bool
  | .plain => false
  | .reader => true
  | .block _ => true
  | .quantLoad _ => false
  | .dequant => false
  | .inflate => true
  | .zlib => true
  | .png => true
  | .jpeg _ => true

/-- `raise Fail(kind)`: the running call ends (R403, R405). -/
def failCall (k : FailKind) (s : State) : State :=
  let n := s.draws
  let c := s.running.getD .plain
  { forgetCall n c s with
    status := statusFailed, errkind := k.code, diag := Config.diag n,
    resValue := Config.result n 8, resWidth := Config.result n 9, resHeight := Config.result n 10,
    resChannels := (Config.result n 11).setWidth 8, resLen := Config.result n 12,
    out := Config.bytes n 0,
    brLive := s.brLive && !c.usesCursor, jbrLive := s.jbrLive && !c.usesCursor,
    point := .idle, running := none, draws := n + 1 }

/-- A raised failure as an outcome: the state after the failed call. -/
def raise (k : FailKind) (s : State) : Out := .next (failCall k s)

/-- The result of an operation that can fail: a value and the state after it, or a failure at a state. -/
inductive Res (α : Type) where
  | ok (a : α) (s : State)
  | fail (k : FailKind) (s : State)
  deriving Repr

/-- Go on with the value, or raise the failure. -/
def Res.run {α : Type} (x : Res α) (f : α → State → Out) : Out :=
  match x with
  | .ok a s => f a s
  | .fail k s => raise k s

/-- Go on with the value, or pass the failure on (R408). -/
def Res.bind {α β : Type} (x : Res α) (f : α → State → Res β) : Res β :=
  match x with
  | .ok a s => f a s
  | .fail k s => .fail k s

/-- The HUF scratch has no specified value outside a build (R29; log 16). -/
def releaseHuf (s : State) : State := { s with huf := Config.huf s.draws, draws := s.draws + 1 }

/-- The JHUF scratch has no specified value outside a build (R57; log 16). -/
def releaseJhuf (s : State) : State := { s with jhuf := Config.jhuf s.draws, draws := s.draws + 1 }

end Sys2Proof.Machine
end

