-- ==== Sys2Proof/Machine/Operands.lean ====
section
/-! DEFINITION. Operand assembly (30_encoding.md R118): bit fields of BR (40_bitreader.md), Huffman symbols of
BR and of JBR (41_huffman.md R170, 45_jpeg_entropy.md R304 to R307), the signed JPEG coefficient (R309), and
the tables an operand is looked up in (R106, R108, R109; 46_jpeg_dequant_idct.md R334). -/

namespace Sys2Proof.Machine

/-! BR. -/

/-- The bit position `P` (R141). -/
def brPos (s : State) : Nat := 8 * s.br.bytePos + s.br.bitPos.toNat

/-- The number of unread bits `L - P` (R141). DESIGN CHOICE (log 31): `L` comes from `BR.len` as it was bound, also
where the host has written a smaller `IN_LEN` since. -/
def brUnread (s : State) : Nat := 8 * s.br.len - brPos s

/-- Place the cursor at bit position `p` (R141). -/
def brSeek (p : Nat) (s : State) : State :=
  { s with br := { s.br with bytePos := p / 8, bitPos := BitVec.ofNat 3 p } }

/-- `BR.buf[i]` (R24). DESIGN CHOICE (log 31): of `IN` it is the byte there now, also at or above an `IN_LEN` that the
host has written since BR was bound. -/
def brByte (s : State) (i : Nat) : Byte :=
  match s.br.space with
  | .input => inByte s (s.br.base + i)
  | .idat => s.idat.getD (s.br.base + i) 0#8

/-- `bit(p)` (R141): bit `p mod 8` of byte `p // 8`. -/
def brBit (s : State) (p : Nat) : Bool := (brByte s (p / 8)).getLsbD (p % 8)

/-- `n` bits from position `p`, the first consumed bit least significant (R142). -/
def bitsLsb (s : State) : Nat → Nat → Nat
  | _, 0 => 0
  | p, n + 1 => (brBit s p).toNat + 2 * bitsLsb s (p + 1) n

/-- `n` bits from position `p`, the first consumed bit most significant (R144). -/
def bitsMsb (s : State) : Nat → Nat → Nat
  | _, 0 => 0
  | p, n + 1 => (brBit s p).toNat * 2 ^ n + bitsMsb s (p + 1) n

/-- `readBits(n)` (R142); the `BoundsFault` of R141 is raised as its conversion (R402, log 22). -/
def readBits (n : Nat) (s : State) : Res Nat :=
  if brUnread s < n then .fail .truncatedStream s
  else .ok (bitsLsb s (brPos s) n) (brSeek (brPos s + n) s)

/-- `readBitsReversed(n)` (R144). -/
def readBitsReversed (n : Nat) (s : State) : Res Nat :=
  if brUnread s < n then .fail .truncatedStream s
  else .ok (bitsMsb s (brPos s) n) (brSeek (brPos s + n) s)

/-- `alignToByte()` (R145). -/
def alignToByte (s : State) : State :=
  if s.br.bitPos = 0#3 then s
  else { s with br := { s.br with bytePos := s.br.bytePos + 1, bitPos := 0#3 } }

/-- `readBytes(n)` (R146). -/
def readBytes (n : Nat) (s : State) : Res (List Byte) :=
  let t := alignToByte s
  if t.br.len - t.br.bytePos < n then .fail .truncatedStream t
  else .ok ((List.range n).map fun k => brByte t (t.br.bytePos + k))
    { t with br := { t.br with bytePos := t.br.bytePos + n } }

/-- Extra bits of a table row: skipped when the count is 0 (R118, R148). -/
def extraBits (n : Nat) (s : State) : Res Nat :=
  if n = 0 then .ok 0 s else readBits n s

/-! Huffman symbols from BR. -/

/-- How a walk ends: at a leaf, at a missing child, or out of bits; `p` is the bit position after it. -/
inductive Walk where
  | leaf (sym : Nat) (p : Nat)
  | missing (p : Nat)
  | exhausted
  deriving DecidableEq, Repr

/-- The walk of R170 from node `n` and bit position `p`, with at most `fuel` unread bits: the bit is read, then
the child is looked up (R171). -/
def walkTree (nodes : List Node) (bit : Nat → Bool) : Nat → Nat → Nat → Walk
  | 0, _, _ => .exhausted
  | fuel + 1, n, p =>
    match childOf nodes n (bit p) with
    | none => .missing (p + 1)
    | some c =>
      match nodes[c]? with
      | none => .missing (p + 1)
      | some node => if node.kind = .leaf then .leaf node.sym (p + 1) else walkTree nodes bit fuel c (p + 1)

/-- `decodeSymbol(T)` after the test of `T.valid` (R170). -/
def decodeSymbol (t : Tree) (s : State) : Res Nat :=
  match walkTree t.nodes (brBit s) (brUnread s) 0 (brPos s) with
  | .leaf sym p => .ok sym (brSeek p s)
  | .missing p => .fail .invalidCode (brSeek p s)
  | .exhausted => .fail .truncatedStream s

/-! JBR. -/

/-- `JBR.readBit()` (R304): the bit and the cursor after it, or none when the data has ended (R306). -/
def jbrBit (s : State) (j : Jbr) : Option (Bool × Jbr) :=
  if j.cnt ≠ 0 then some (j.acc.getLsbD (j.cnt - 1), { j with cnt := j.cnt - 1 })
  else if inLength s ≤ j.pos then none
  else if inByte s j.pos = 0xFF#8 then
    if inLength s ≤ j.pos + 1 ∨ inByte s (j.pos + 1) ≠ 0x00#8 then none
    else some ((0xFF#8).getLsbD 7, { pos := j.pos + 2, acc := 0xFF#8, cnt := 7 })
  else some ((inByte s j.pos).getLsbD 7, { pos := j.pos + 1, acc := inByte s j.pos, cnt := 7 })

/-- The loop of `receive` (R305). -/
def jbrReceive (s : State) : Nat → Nat → Jbr → Option (Nat × Jbr)
  | 0, v, j => some (v, j)
  | n + 1, v, j =>
    match jbrBit s j with
    | none => none
    | some (b, j') => jbrReceive s n (2 * v + b.toNat) j'

/-- `receive(n)` (R305). -/
def receive (n : Nat) (s : State) : Res Nat :=
  match jbrReceive s n 0 s.jbr with
  | some (v, j) => .ok v { s with jbr := j }
  | none => .fail .truncatedStream s

/-- How a walk over JBR ends. -/
inductive JWalk where
  | leaf (sym : Nat) (j : Jbr)
  | missing (j : Jbr)
  | exhausted
  deriving DecidableEq, Repr

/-- The walk of R307; `fuel` is at least the number of bits left. -/
def jwalkTree (nodes : List Node) (s : State) : Nat → Nat → Jbr → JWalk
  | 0, _, _ => .exhausted
  | fuel + 1, n, j =>
    match jbrBit s j with
    | none => .exhausted
    | some (b, j') =>
      match childOf nodes n b with
      | none => .missing j'
      | some c =>
        match nodes[c]? with
        | none => .missing j'
        | some node => if node.kind = .leaf then .leaf node.sym j' else jwalkTree nodes s fuel c j'

/-- `jdecode(T)` (R307), with the bits that can be left as fuel. -/
def jdecode (t : Tree) (s : State) : Res Nat :=
  match jwalkTree t.nodes s (8 * (inLength s - s.jbr.pos) + s.jbr.cnt) 0 s.jbr with
  | .leaf sym j => .ok sym { s with jbr := j }
  | .missing j => .fail .invalidCode { s with jbr := j }
  | .exhausted => .fail .truncatedStream s

/-- `extend(m, s)` (R309). -/
def extend (m s : Nat) : Int :=
  if s = 0 then 0
  else if 2 ^ (s - 1) ≤ m then (m : Int)
  else (m : Int) - ((2 : Int) ^ s - 1)

/-- `clamp(v, lo, hi)` (00_scope.md R9). -/
def clamp (v lo hi : Int) : Int := if v < lo then lo else if hi < v then hi else v

/-! Tables. -/

/-- `LBASE` (R108). -/
def lengthBase : List Nat :=
  [3, 4, 5, 6, 7, 8, 9, 10, 11, 13, 15, 17, 19, 23, 27] ++ [31, 35, 43, 51, 59, 67, 83, 99, 115, 131, 163, 195, 227, 258]

/-- `LEXT` (R108). -/
def lengthExtra : List Nat :=
  [0, 0, 0, 0, 0, 0, 0, 0, 1, 1, 1, 1, 2, 2, 2] ++ [2, 3, 3, 3, 3, 4, 4, 4, 4, 5, 5, 5, 5, 0]

/-- `DBASE` (R109). -/
def distBase : List Nat :=
  [1, 2, 3, 4, 5, 7, 9, 13, 17, 25, 33, 49, 65, 97, 129] ++
  [193, 257, 385, 513, 769, 1025, 1537, 2049, 3073, 4097, 6145, 8193, 12289, 16385, 24577]

/-- `DEXT` (R109). -/
def distExtra : List Nat :=
  [0, 0, 0, 0, 1, 1, 2, 2, 3, 3, 4, 4, 5, 5, 6] ++ [6, 7, 7, 8, 8, 9, 9, 10, 10, 11, 11, 12, 12, 13, 13]

/-- `ORDER` (R106). -/
def clenOrder : List Nat := [16, 17, 18, 0, 8, 7, 9, 6, 10, 5, 11, 4, 12, 3, 13, 2, 14, 1, 15]

/-- `ZZ` (R334). -/
def zigzag : List Nat :=
  [0, 1, 8, 16, 9, 2, 3, 10, 17, 24, 32, 25, 18, 11, 4, 5] ++
  [12, 19, 26, 33, 40, 48, 41, 34, 27, 20, 13, 6, 7, 14, 21, 28] ++
  [35, 42, 49, 56, 57, 50, 43, 36, 29, 22, 15, 23, 30, 37, 44, 51] ++
  [58, 59, 52, 45, 38, 31, 39, 46, 53, 60, 61, 54, 47, 55, 62, 63]

/-- The high nibble `v[7:4]`. -/
def highNibble (v : Byte) : Nat := v.toNat / 16

/-- The low nibble `v[3:0]`. -/
def lowNibble (v : Byte) : Nat := v.toNat % 16

end Sys2Proof.Machine
end

