-- ==== Sys2Proof/Machine/Reader.lean ====
section
/-! DEFINITION. The six commands of BR (40_bitreader.md R140 to R149). -/

namespace Sys2Proof.Machine

/-- A command that continues from the BR cursor is refused after a failed cursor-using command (R103, R407). -/
def whenBrLive (s : State) (k : Out) : Out :=
  if s.brLive then k else .refused .cursorAfterFailure

/-- A bit count of `ARG0` outside 1..32 is refused (R148). -/
def whenBitCount (s : State) (k : Out) : Out :=
  if 1 ≤ s.arg0.toNat ∧ s.arg0.toNat ≤ 32 then k else .refused .bitCountOutOfRange

/-- The end of a command whose result is a number in `RES_VALUE`. -/
def endValue (v : Nat) (s : State) : State := endOk { s with resValue := BitVec.ofNat 32 v }

/-- `BR_RESET` (R140). -/
def execBrReset (s : State) : Out :=
  whenIdle s (.next (endOk (bindBr .input 0 (inLength s) (beginCall .plain s))))

/-- `BR_READBITS` (R142). -/
def execBrReadbits (s : State) : Out :=
  whenIdle s <| whenBrLive s <| whenBitCount s <|
    (readBits s.arg0.toNat (beginCall .reader s)).run fun v t => .next (endValue v t)

/-- `BR_READBIT` (R143). -/
def execBrReadbit (s : State) : Out :=
  whenIdle s <| whenBrLive s <|
    (readBits 1 (beginCall .reader s)).run fun v t => .next (endValue v t)

/-- `BR_READBITS_REV` (R144). -/
def execBrReadbitsRev (s : State) : Out :=
  whenIdle s <| whenBrLive s <| whenBitCount s <|
    (readBitsReversed s.arg0.toNat (beginCall .reader s)).run fun v t => .next (endValue v t)

/-- `BR_ALIGN` (R145). -/
def execBrAlign (s : State) : Out :=
  whenIdle s <| whenBrLive s <| .next (endOk (alignToByte (beginCall .reader s)))

/-- `BR_READBYTES` (R146); `RES_LEN` is the number of bytes in `OUT` (R22, log 10). -/
def execBrReadbytes (s : State) : Out :=
  whenIdle s <| whenBrLive s <|
    (readBytes s.arg0.toNat (beginCall .reader s)).run fun bytes t =>
      .next (endOk { t with out := bytes, resLen := resLenOf bytes.length })

end Sys2Proof.Machine
end

