-- ==== Sys2Proof/Machine/Containers.lean ====
section
/-! DEFINITION. The output of INF (42_inflate.md R215), the scanline geometry of PNG (44_png.md R274), and what
follows the last block in each of the calls that run INF: R220 and R221, 43_zlib.md R246 and R247, and
44_png.md R273 to R275. -/

namespace Sys2Proof.Machine

/-- `emit(v)` (R215): to `OUT` and to the window. -/
def emit (v : Byte) (s : State) : State :=
  { s with
    out := s.out ++ [v], win := Memory.write s.win s.inf.wpos v,
    inf := { s.inf with wpos := (s.inf.wpos + 1) % Config.windowSize, produced := s.inf.produced + 1 } }

/-- `emit` of each byte, in order. -/
def emitAll : List Byte → State → State
  | [], s => s
  | v :: rest, s => emitAll rest (emit v s)

/-! Scanline geometry. -/

/-- `ch`: samples per pixel in the file (R274). -/
def pngSamples (p : Png) : Nat :=
  if p.colorType = 2#8 then 3 else if p.colorType = 4#8 then 2 else if p.colorType = 6#8 then 4 else 1

/-- `bitspp` (R274). -/
def pngBits (p : Png) : Nat := pngSamples p * p.bitDepth.toNat

/-- `rowbytes` (R274). -/
def pngRowBytes (p : Png) : Nat := (p.width.toNat * pngBits p + 7) / 8

/-- `bpp` (R274). -/
def pngBpp (p : Png) : Nat := max 1 (pngBits p / 8)

/-- `need` (R274). -/
def pngNeed (p : Png) : Nat := p.height.toNat * (1 + pngRowBytes p)

/-- Where row `r` of `RAW` begins: its filter byte (R274). -/
def pngRowStart (p : Png) (r : Nat) : Nat := r * (1 + pngRowBytes p)

/-! After the last block. -/

/-- The Adler-32 of `OUT`, left in `ZLB.a` and `ZLB.b` (R246). -/
def sumAdler (s : State) : State :=
  { s with zlb := { s.zlb with a := (adlerSums s.out 1 0).1, b := (adlerSums s.out 1 0).2 } }

/-- Whether the sums give `ZLB.expected` (R247). -/
def adlerMatches (s : State) : Bool := adlerValue (s.zlb.a, s.zlb.b) == s.zlb.expected.toNat

/-- `RAW <- zlib_decompress(IDAT)`, then the length test of R274 and the first line of R275. -/
def beginRows (s : State) : Out :=
  let t := { s with raw := s.out, out := [] }
  if t.raw.length < pngNeed t.png then raise .truncatedStream t
  else .next { t with png := { t.png with prev := List.replicate (pngRowBytes t.png) 0#8, cur := [], image := [], row := 0 }, point := .pngRow }

/-- The end of INF: the call ends (R190), or the caller goes on (R240, R273). -/
def inflateDone (s : State) : Out :=
  match s.running with
  | some .inflate => .next (endInflate { s with resLen := resLenOf s.inf.produced })
  | some .zlib =>
    if adlerMatches (sumAdler s) then .next (endZlib { sumAdler s with resLen := resLenOf s.out.length })
    else raise .malformedContainer (sumAdler s)
  | some .png => if adlerMatches (sumAdler s) then beginRows (sumAdler s) else raise .malformedContainer (sumAdler s)
  | _ => .fault .noRunningCall

/-- The end of a block (R190, R192): after the final block INF ends, else a header follows. -/
def finishBlock (s : State) : Out :=
  if s.inf.bfinal then inflateDone s else .next { s with point := .blockHdr }

end Sys2Proof.Machine
end

