-- ==== Sys2Proof/Machine/Inflate.lean ====
section
/-! DEFINITION. INF (42_inflate.md): the command, block headers, stored blocks, dynamic headers, literals and
the end of a block, and the fixed codes. -/

namespace Sys2Proof.Machine

/-- `INF_DECOMPRESS` (R190). -/
def execInfDecompress (s : State) : Out :=
  whenIdle s (.next { beginStream .inflate s with point := .blockHdr })

/-- Latch a block header (R191). -/
def latchHeader (bfinal : Bool) (btype : BitVec 2) (s : State) : State :=
  { s with inf := { s.inf with bfinal := bfinal, btype := btype } }

/-- `BLOCK_STORED` (R194): align; `LEN` and `NLEN` follow. -/
def execBlockStored (bfinal : Bool) (s : State) : Out :=
  .next { alignToByte (latchHeader bfinal 0#2 s) with point := .stored }

/-- `BLOCK_FIXED` (R198). -/
def execBlockFixed (bfinal : Bool) (s : State) : Out :=
  .next { latchHeader bfinal 1#2 s with point := .litlenCode }

/-- `BLOCK_DYNAMIC` (R199). -/
def execBlockDynamic (bfinal : Bool) (s : State) : Out :=
  .next { latchHeader bfinal 2#2 s with point := .dynHdr }

/-- `BLOCK_RESERVED` (R193). -/
def execBlockReserved (bfinal : Bool) (s : State) : Out :=
  raise .malformedContainer (latchHeader bfinal 3#2 s)

/-- `STORED_LEN_NLEN` (R195 to R197): the complement check, then the bytes to `OUT` and to the window. -/
def execStoredLenNlen (len nlen : Half) (s : State) : Out :=
  let t := { s with inf := { s.inf with storedLen := len, storedNlen := nlen } }
  if nlen = ~~~len then (readBytes len.toNat t).run fun bytes u => finishBlock (emitAll bytes u)
  else raise .malformedContainer t

/-- The `n` fields of 3 bits that follow the counts, in order (R201). -/
def readClenFields : Nat → State → Res (List Nat)
  | 0, s => .ok [] s
  | n + 1, s => (readBits 3 s).bind fun v t => (readClenFields n t).bind fun vs u => .ok (v :: vs) u

/-- Place the fields at `ORDER[0], ORDER[1], ...`; the other lengths are 0 (R201). -/
def placeClen : List Nat → List Nat → List Nat → List Nat
  | v :: vs, o :: os, lens => placeClen vs os (lens.set o v)
  | _, _, lens => lens

/-- `INF.cl_len` from the fields read (R201). -/
def clenLengths (fields : List Nat) : List Nat := placeClen fields clenOrder (List.replicate 19 0)

/-- `DYN_COUNTS` (R200 to R203). -/
def execDynCounts (hlit hdist : BitVec 5) (hclen : BitVec 4) (s : State) : Out :=
  let t := { s with inf := { s.inf with hlit := hlit.toNat + 257, hdist := hdist.toNat + 1, hclen := hclen.toNat + 4 } }
  (readClenFields t.inf.hclen t).run fun fields u =>
    if admitted (clenLengths fields) 7 then
      .next (releaseHuf { u with
        inf := { u.inf with clLen := clenLengths fields, lens := [] }, tCl := buildTree (clenLengths fields) 7,
        point := .clen })
    else .refused .lengthsNotAdmitted

/-- `INF.hlit + INF.hdist` (R203). -/
def totalLengths (s : State) : Nat := s.inf.hlit + s.inf.hdist

/-- The end of the code-length loop, when the sequence is complete: the split (R207) and the two builds
(R208); else the loop goes on. -/
def lengthsDone (s : State) : Out :=
  if s.inf.lens.length < totalLengths s then .next { s with point := .clen }
  else if admitted (s.inf.lens.take s.inf.hlit) Config.maxBits ∧
      admitted ((s.inf.lens.drop s.inf.hlit).take s.inf.hdist) Config.maxBits then
    .next (releaseHuf { s with
      tLl := buildTree (s.inf.lens.take s.inf.hlit) Config.maxBits,
      tD := buildTree ((s.inf.lens.drop s.inf.hlit).take s.inf.hdist) Config.maxBits,
      point := .litlenCode })
  else .refused .lengthsNotAdmitted

/-- `cl_append(v, r)` (R205, R206), then the loop test of R203. -/
def appendLengths (v r : Nat) (s : State) : Out :=
  if totalLengths s < s.inf.lens.length + r then raise .invalidTable s
  else lengthsDone { s with inf := { s.inf with lens := s.inf.lens ++ List.replicate r v } }

/-- `CL_LEN` (R204). -/
def execClLen (v : BitVec 4) (s : State) : Out :=
  lengthsDone { s with inf := { s.inf with lens := s.inf.lens ++ [v.toNat] } }

/-- `CL_REP` (R205, R206). -/
def execClRep (s : State) : Out :=
  match s.inf.lens.getLast? with
  | none => raise .invalidTable s
  | some prev => (readBits 2 s).run fun e t => appendLengths prev (3 + e) t

/-- `CL_ZERO3` (R205). -/
def execClZero3 (s : State) : Out := (readBits 3 s).run fun e t => appendLengths 0 (3 + e) t

/-- `CL_ZERO11` (R205). -/
def execClZero11 (s : State) : Out := (readBits 7 s).run fun e t => appendLengths 0 (11 + e) t

/-- `LIT` (R211). -/
def execLit (v : Byte) (s : State) : Out := .next { emit v s with point := .litlenCode }

/-- `EOB` (R212). -/
def execEob (s : State) : Out := finishBlock s

/-- Latch the literal/length symbol of a fixed code (log 14). -/
def latchLitlen (sym : Nat) (s : State) : Out :=
  .next { s with inf := { s.inf with sym := sym }, point := .litlenSym }

/-- `FIXLL_0_143` (R110, R166). -/
def execFixll0to143 (sym : BitVec 9) (s : State) : Out := latchLitlen sym.toNat s

/-- `FIXLL_144_255` (R110, R166). -/
def execFixll144to255 (sym : BitVec 9) (s : State) : Out := latchLitlen sym.toNat s

/-- `FIXLL_256_279` (R110, R166). -/
def execFixll256to279 (sym : BitVec 9) (s : State) : Out := latchLitlen sym.toNat s

/-- `FIXLL_280_287` (R110, R166). -/
def execFixll280to287 (sym : BitVec 9) (s : State) : Out := latchLitlen sym.toNat s

/-- `FIXD_0_31` (R110, R167). -/
def execFixd0to31 (sym : BitVec 5) (s : State) : Out :=
  .next { s with inf := { s.inf with sym := sym.toNat }, point := .distSym }

end Sys2Proof.Machine
end

