-- ==== Sys2Proof/Machine/Codes.lean ====
section
/-! DEFINITION. The length and distance codes of INF (42_inflate.md R213 to R219). -/

namespace Sys2Proof.Machine

/-- A length code (R216): `LBASE[i]` plus its extra bits; the distance follows. -/
def matchLength (i : Nat) (s : State) : Out :=
  (extraBits (lengthExtra.getD i 0) s).run fun e t =>
    .next { t with inf := { t.inf with matchLen := lengthBase.getD i 0 + e }, point := .distCode }

/-- The window index `distance` bytes back from `wpos` (20_memory.md R78). -/
def windowIndex (wpos distance : Nat) : Nat :=
  (((wpos : Int) - (distance : Int)) % (Config.windowSize : Int)).toNat

/-- `WIN[(INF.wpos - distance) mod 32768]` (R219). -/
def windowByte (s : State) (distance : Nat) : Byte := Memory.read s.win (windowIndex s.inf.wpos distance)

/-- The copy of R219, one byte at a time. -/
def copyBack (distance : Nat) : Nat → State → State
  | 0, s => s
  | n + 1, s => copyBack distance n (emit (windowByte s distance) s)

/-- The distance check (R218) and the copy (R219). -/
def copyMatch (distance : Nat) (s : State) : Out :=
  if s.inf.produced < distance then raise .invalidBackreference s
  else .next { copyBack distance s.inf.matchLen s with point := .litlenCode }

/-- A distance code (R217): `DBASE[d]` plus its extra bits, then the check and the copy. -/
def matchDistance (d : Nat) (s : State) : Out :=
  (extraBits (distExtra.getD d 0) s).run fun e t => copyMatch (distBase.getD d 0 + e) t

/-- `LEN_257` (R213, R216). -/
def execLen257 (s : State) : Out := matchLength 0 s

/-- `LEN_258` (R213, R216). -/
def execLen258 (s : State) : Out := matchLength 1 s

/-- `LEN_259` (R213, R216). -/
def execLen259 (s : State) : Out := matchLength 2 s

/-- `LEN_260` (R213, R216). -/
def execLen260 (s : State) : Out := matchLength 3 s

/-- `LEN_261` (R213, R216). -/
def execLen261 (s : State) : Out := matchLength 4 s

/-- `LEN_262` (R213, R216). -/
def execLen262 (s : State) : Out := matchLength 5 s

/-- `LEN_263` (R213, R216). -/
def execLen263 (s : State) : Out := matchLength 6 s

/-- `LEN_264` (R213, R216). -/
def execLen264 (s : State) : Out := matchLength 7 s

/-- `LEN_265` (R213, R216). -/
def execLen265 (s : State) : Out := matchLength 8 s

/-- `LEN_266` (R213, R216). -/
def execLen266 (s : State) : Out := matchLength 9 s

/-- `LEN_267` (R213, R216). -/
def execLen267 (s : State) : Out := matchLength 10 s

/-- `LEN_268` (R213, R216). -/
def execLen268 (s : State) : Out := matchLength 11 s

/-- `LEN_269` (R213, R216). -/
def execLen269 (s : State) : Out := matchLength 12 s

/-- `LEN_270` (R213, R216). -/
def execLen270 (s : State) : Out := matchLength 13 s

/-- `LEN_271` (R213, R216). -/
def execLen271 (s : State) : Out := matchLength 14 s

/-- `LEN_272` (R213, R216). -/
def execLen272 (s : State) : Out := matchLength 15 s

/-- `LEN_273` (R213, R216). -/
def execLen273 (s : State) : Out := matchLength 16 s

/-- `LEN_274` (R213, R216). -/
def execLen274 (s : State) : Out := matchLength 17 s

/-- `LEN_275` (R213, R216). -/
def execLen275 (s : State) : Out := matchLength 18 s

/-- `LEN_276` (R213, R216). -/
def execLen276 (s : State) : Out := matchLength 19 s

/-- `LEN_277` (R213, R216). -/
def execLen277 (s : State) : Out := matchLength 20 s

/-- `LEN_278` (R213, R216). -/
def execLen278 (s : State) : Out := matchLength 21 s

/-- `LEN_279` (R213, R216). -/
def execLen279 (s : State) : Out := matchLength 22 s

/-- `LEN_280` (R213, R216). -/
def execLen280 (s : State) : Out := matchLength 23 s

/-- `LEN_281` (R213, R216). -/
def execLen281 (s : State) : Out := matchLength 24 s

/-- `LEN_282` (R213, R216). -/
def execLen282 (s : State) : Out := matchLength 25 s

/-- `LEN_283` (R213, R216). -/
def execLen283 (s : State) : Out := matchLength 26 s

/-- `LEN_284` (R213, R216). -/
def execLen284 (s : State) : Out := matchLength 27 s

/-- `LEN_285` (R213, R216). -/
def execLen285 (s : State) : Out := matchLength 28 s

/-- `LEN_INVALID` (R214). -/
def execLenInvalid (_ : Bool) (s : State) : Out := raise .invalidBackreference s

/-- `DIST_0` (R217). -/
def execDist0 (s : State) : Out := matchDistance 0 s

/-- `DIST_1` (R217). -/
def execDist1 (s : State) : Out := matchDistance 1 s

/-- `DIST_2` (R217). -/
def execDist2 (s : State) : Out := matchDistance 2 s

/-- `DIST_3` (R217). -/
def execDist3 (s : State) : Out := matchDistance 3 s

/-- `DIST_4` (R217). -/
def execDist4 (s : State) : Out := matchDistance 4 s

/-- `DIST_5` (R217). -/
def execDist5 (s : State) : Out := matchDistance 5 s

/-- `DIST_6` (R217). -/
def execDist6 (s : State) : Out := matchDistance 6 s

/-- `DIST_7` (R217). -/
def execDist7 (s : State) : Out := matchDistance 7 s

/-- `DIST_8` (R217). -/
def execDist8 (s : State) : Out := matchDistance 8 s

/-- `DIST_9` (R217). -/
def execDist9 (s : State) : Out := matchDistance 9 s

/-- `DIST_10` (R217). -/
def execDist10 (s : State) : Out := matchDistance 10 s

/-- `DIST_11` (R217). -/
def execDist11 (s : State) : Out := matchDistance 11 s

/-- `DIST_12` (R217). -/
def execDist12 (s : State) : Out := matchDistance 12 s

/-- `DIST_13` (R217). -/
def execDist13 (s : State) : Out := matchDistance 13 s

/-- `DIST_14` (R217). -/
def execDist14 (s : State) : Out := matchDistance 14 s

/-- `DIST_15` (R217). -/
def execDist15 (s : State) : Out := matchDistance 15 s

/-- `DIST_16` (R217). -/
def execDist16 (s : State) : Out := matchDistance 16 s

/-- `DIST_17` (R217). -/
def execDist17 (s : State) : Out := matchDistance 17 s

/-- `DIST_18` (R217). -/
def execDist18 (s : State) : Out := matchDistance 18 s

/-- `DIST_19` (R217). -/
def execDist19 (s : State) : Out := matchDistance 19 s

/-- `DIST_20` (R217). -/
def execDist20 (s : State) : Out := matchDistance 20 s

/-- `DIST_21` (R217). -/
def execDist21 (s : State) : Out := matchDistance 21 s

/-- `DIST_22` (R217). -/
def execDist22 (s : State) : Out := matchDistance 22 s

/-- `DIST_23` (R217). -/
def execDist23 (s : State) : Out := matchDistance 23 s

/-- `DIST_24` (R217). -/
def execDist24 (s : State) : Out := matchDistance 24 s

/-- `DIST_25` (R217). -/
def execDist25 (s : State) : Out := matchDistance 25 s

/-- `DIST_26` (R217). -/
def execDist26 (s : State) : Out := matchDistance 26 s

/-- `DIST_27` (R217). -/
def execDist27 (s : State) : Out := matchDistance 27 s

/-- `DIST_28` (R217). -/
def execDist28 (s : State) : Out := matchDistance 28 s

/-- `DIST_29` (R217). -/
def execDist29 (s : State) : Out := matchDistance 29 s

/-- `DIST_INVALID` (R217). -/
def execDistInvalid (_ : Bool) (s : State) : Out := raise .invalidBackreference s

end Sys2Proof.Machine
end

