-- ==== Sys2Proof/Machine/Huffman.lean ====
section
/-! DEFINITION. The three commands of HUF (41_huffman.md R160 to R175). The builds are in Trees.lean. -/

namespace Sys2Proof.Machine

/-- The `N` code lengths of `HUF_BUILD`, one per input byte (R161). -/
def inputLengths (s : State) : List Nat := (inBytes s 0 s.arg0.toNat).map (·.toNat)

/-- `HUF_BUILD` (R161). -/
def execHufBuild (s : State) : Out :=
  whenIdle s <|
    if s.arg0.toNat < 1 ∨ 288 < s.arg0.toNat ∨ inLength s < s.arg0.toNat then .refused .operandOutOfRange
    else if admitted (inputLengths s) Config.maxBits then
      .next (endOk (releaseHuf { beginCall .plain s with tUser := buildTree (inputLengths s) Config.maxBits }))
    else .refused .lengthsNotAdmitted

/-- `HUF_BUILD_FIXED` (R165). -/
def execHufBuildFixed (s : State) : Out :=
  whenIdle s <|
    .next (endOk (releaseHuf { beginCall .plain s with tFixLL := fixedLitTree, tFixD := fixedDistTree }))

/-- `HUF_DECODE` (R170). -/
def execHufDecode (s : State) : Out :=
  whenIdle s <| whenBrLive s <|
    match userSlot s s.arg0.toNat with
    | none => .refused .treeNotValid
    | some t =>
      if t.valid then (decodeSymbol t (beginCall .reader s)).run fun v t => .next (endValue v t)
      else .refused .treeNotValid

end Sys2Proof.Machine
end

