-- ==== Sys2Proof/Machine/JpegPixels.lean ====
section
/-! DEFINITION. JDQ and JIDCT (46_jpeg_dequant_idct.md) and JCC (47_jpeg_color.md). -/

namespace Sys2Proof.Machine

/-! JDQ. -/

/-- The entries of a quantization table in its bytes: one byte each, or two big-endian (R330). -/
def quantEntries : Bool → List Byte → List Nat
  | false, bytes => bytes.map (·.toNat)
  | true, hi :: lo :: rest => be16 hi lo :: quantEntries true rest
  | true, _ => []

/-- Which quantization table a failed load leaves undefined, kept with a running `JPEG_DECODE` (R405). -/
def noteBadTable (t : Nat) : Option Call → Option Call
  | some (.jpeg _) => some (.jpeg (some t))
  | r => r

/-- The load of table `t` (R330, R333). -/
def loadQuant (t : Nat) (p : Bool) (entries : List Nat) (s : State) : Res Unit :=
  if entries.contains 0 then
    .fail .invalidTable { s with qtDef := s.qtDef.set t false, running := noteBadTable t s.running }
  else .ok () { s with qt := s.qt.set t entries, qtPrec := s.qtPrec.set t p, qtDef := s.qtDef.set t true }

/-- The table id of `JDQ_LOAD` (R330). -/
def quantLoadId (s : State) : Nat := s.arg0.toNat % 16

/-- The precision of `JDQ_LOAD` (R330). -/
def quantLoadWide (s : State) : Bool := s.arg0.getLsbD 4

/-- How many bytes `JDQ_LOAD` reads (R330). -/
def quantLoadBytes (s : State) : Nat := if quantLoadWide s then 128 else 64

/-- `JDQ_LOAD` (R330). -/
def execJdqLoad (s : State) : Out :=
  whenIdle s <|
    if 3 < quantLoadId s ∨ 32 ≤ s.arg0.toNat ∨ inLength s < quantLoadBytes s then .refused .operandOutOfRange
    else
      (loadQuant (quantLoadId s) (quantLoadWide s) (quantEntries (quantLoadWide s) (inBytes s 0 (quantLoadBytes s)))
        (beginCall (.quantLoad (quantLoadId s)) s)).run fun _ t => .next (endOk t)

/-- `QT[t][k]`. -/
def quantEntry (s : State) (t k : Nat) : Nat := (s.qt.getD t []).getD k 0

/-- One dequantized coefficient: the exact product, clamped (R331). -/
def dequantValue (s : State) (t k : Nat) : Int :=
  clamp (s.coef.getD k 0 * (quantEntry s t k : Int)) (-32768) 32767

/-- The body of `JDQ_BLOCK` (R331, R333). -/
def dequantize (t : Nat) (s : State) : Res Unit :=
  if quantDefined s t = false ∨ (List.range 64).any (fun k => quantEntry s t k == 0) then .fail .invalidTable s
  else .ok () { s with dq := (List.range 64).map (dequantValue s t) }

/-- `JDQ_BLOCK` (R331). -/
def execJdqBlock (s : State) : Out :=
  whenIdle s <|
    if 3 < s.arg0.toNat then .refused .operandOutOfRange
    else (dequantize s.arg0.toNat (beginCall .dequant s)).run fun _ t => .next (endOk t)

/-! JIDCT. -/

/-- `K[u][x]` at `8*u + x` (R337). -/
def idctKernel : List Int :=
  [2896, 2896, 2896, 2896, 2896, 2896, 2896, 2896] ++ [4017, 3406, 2276, 799, -799, -2276, -3406, -4017] ++
  [3784, 1567, -1567, -3784, -3784, -1567, 1567, 3784] ++ [3406, -799, -4017, -2276, 2276, 4017, 799, -3406] ++
  [2896, -2896, -2896, 2896, 2896, -2896, -2896, 2896] ++ [2276, -4017, 799, 3406, -3406, -799, 4017, -2276] ++
  [1567, -3784, 3784, -1567, -1567, 3784, -3784, 1567] ++ [799, -2276, 3406, -4017, 4017, -3406, 2276, -799]

/-- `K[u][x]` (R337). -/
def kernelAt (u x : Nat) : Int := idctKernel.getD (8 * u + x) 0

/-- Place values at the natural indexes given, in order (R335). -/
def placeNatural : List Nat → List Int → List Int → List Int
  | i :: is, v :: vs, f => placeNatural is vs (f.set i v)
  | _, _, f => f

/-- The matrix `F`, row by row, of the zigzag block `DQ` (R335). -/
def unzigzag (dq : List Int) : List Int := placeNatural zigzag dq (List.replicate 64 0)

/-- Pass 1: the rows (R336). -/
def idctRows (f : List Int) : List Int :=
  (List.range 64).map fun i => ((List.range 8).map fun u => kernelAt u (i % 8) * f.getD (8 * (i / 8) + u) 0).sum

/-- Pass 2: the columns (R336). -/
def idctColumns (t : List Int) : List Int :=
  (List.range 64).map fun i => ((List.range 8).map fun v => kernelAt v (i / 8) * t.getD (8 * v + i % 8) 0).sum

/-- One sample of a sum: rounding, level shift, clamp (R336). -/
def idctSample (r : Int) : Byte :=
  BitVec.ofInt 8 (clamp ((r + 2 ^ (2 * Config.idctFrac - 1)) / 2 ^ (2 * Config.idctFrac) + Config.levelShift) 0 255)

/-- The inverse transform of a zigzag block (R336). -/
def idct (dq : List Int) : List Byte := (idctColumns (idctRows (unzigzag dq))).map idctSample

/-- The body of `JIDCT_BLOCK` (R336). -/
def transform (s : State) : State := { s with samp := idct s.dq }

/-- `JIDCT_BLOCK` (R336). -/
def execJidctBlock (s : State) : Out := whenIdle s (.next (endOk (transform (beginCall .plain s))))

/-! JCC. -/

/-- Rounding and clamping of a sum with `CC_FRAC` fraction bits (R351). -/
def colorRound (v : Int) : Byte :=
  BitVec.ofInt 8 (clamp ((v + 2 ^ (Config.colorFrac - 1)) / 2 ^ Config.colorFrac) 0 255)

/-- A chroma byte about zero (R351). -/
def chroma (c : Byte) : Int := (c.toNat : Int) - 128

/-- `R` (R350, R351). -/
def colorR (y cr : Byte) : Byte := colorRound ((y.toNat : Int) * 2 ^ Config.colorFrac + 91881 * chroma cr)

/-- `G` (R350, R351). -/
def colorG (y cb cr : Byte) : Byte :=
  colorRound ((y.toNat : Int) * 2 ^ Config.colorFrac - 22553 * chroma cb - 46802 * chroma cr)

/-- `B` (R350, R351). -/
def colorB (y cb : Byte) : Byte := colorRound ((y.toNat : Int) * 2 ^ Config.colorFrac + 116130 * chroma cb)

/-- Three bytes in the low lanes of a result, first in `[7:0]` (R351). -/
def packRgb (r g b : Byte) : Word := BitVec.ofNat 32 (r.toNat + g.toNat * 2 ^ 8 + b.toNat * 2 ^ 16)

/-- Byte lane `i` of `ARG0`. -/
def argLane (s : State) (i : Nat) : Byte := BitVec.ofNat 8 (s.arg0.toNat / 2 ^ (8 * i))

/-- `JCC_PIXEL` (R351). -/
def execJccPixel (s : State) : Out :=
  whenIdle s <| .next (endOk { beginCall .plain s with
    resValue := packRgb (colorR (argLane s 0) (argLane s 2)) (colorG (argLane s 0) (argLane s 1) (argLane s 2))
      (colorB (argLane s 0) (argLane s 1)) })

/-- `JCC_GRAY` (R354). -/
def execJccGray (s : State) : Out :=
  whenIdle s <| .next (endOk { beginCall .plain s with resValue := packRgb (argLane s 0) (argLane s 0) (argLane s 0) })

end Sys2Proof.Machine
end

