-- ==== Sys2Proof/Machine/JpegScan.lean ====
section
/-! DEFINITION. The scan of a JPEG file (48_jpeg_decoder.md R377 to R389): geometry, the order of the blocks,
restarts, placement, and the assembly of the pixels. -/

namespace Sys2Proof.Machine

/-- The frame component `i`. -/
def frameComp (d : Jdec) (i : Nat) : FrameComp := d.comps.getD i { id := 0#8, h := 0, v := 0, tq := 0 }

/-- The scan component `i`. -/
def scanComp (d : Jdec) (i : Nat) : ScanComp := d.scanComps.getD i { cs := 0#8, td := 0, ta := 0 }

/-- `Hi[i]` (R377). -/
def factorH (d : Jdec) (i : Nat) : Nat := if d.ncomp = 1 then 1 else (frameComp d i).h

/-- `Vi[i]` (R377). -/
def factorV (d : Jdec) (i : Nat) : Nat := if d.ncomp = 1 then 1 else (frameComp d i).v

/-- The largest of `f 0 .. f (n-1)`. -/
def maxOver (f : Nat → Nat) (n : Nat) : Nat := ((List.range n).map f).foldl max 0

/-- `Hmax` (R377). -/
def maxH (d : Jdec) : Nat := maxOver (factorH d) d.ncomp

/-- `Vmax` (R377). -/
def maxV (d : Jdec) : Nat := maxOver (factorV d) d.ncomp

/-- `mcux` (R377). -/
def mcusAcross (d : Jdec) : Nat := (d.width + 8 * maxH d - 1) / (8 * maxH d)

/-- `mcuy` (R377). -/
def mcusDown (d : Jdec) : Nat := (d.height + 8 * maxV d - 1) / (8 * maxV d)

/-- The width of `PLANE[i]` (R380). -/
def planeWidth (d : Jdec) (i : Nat) : Nat := mcusAcross d * factorH d i * 8

/-- The plane address of the sample in row `y`, column `x`. -/
def planeAddress (d : Jdec) (i y x : Nat) : Nat := y * planeWidth d i + x

/-- Plane column of the current block's top-left sample (R381). -/
def blockX (s : State) : Nat := (s.jc.mx * factorH s.jdec s.jc.c + s.jc.bx) * 8

/-- Plane row of the current block's top-left sample (R381). -/
def blockY (s : State) : Nat := (s.jc.my * factorV s.jdec s.jc.c + s.jc.by_) * 8

/-- Row `y` of `SAMP`. -/
def sampRow (s : State) (y : Nat) : List Byte := (s.samp.drop (8 * y)).take 8

/-- The rows `8-n .. 7` of `SAMP` into a plane (R379). -/
def placeRows (s : State) : Nat → Memory → Memory
  | 0, m => m
  | n + 1, m =>
    placeRows s n
      (Memory.writeAll m (planeAddress s.jdec s.jc.c (blockY s + (7 - n)) (blockX s)) (sampRow s (7 - n)))

/-- `PLANE[i][y0 + y][x0 + x] <- SAMP[y][x]` (R379). -/
def placeBlock (s : State) : State :=
  { s with plane := s.plane.set s.jc.c (placeRows s 8 (s.plane.getD s.jc.c [])) }

/-- The start of a block decode: `COEF <- 0`, then the DC symbol (45_jpeg_entropy.md R310). -/
def beginBlock (c td ta : Nat) (s : State) : State :=
  { s with coef := List.replicate 64 0, jc := { s.jc with c := c, td := td, ta := ta, k := 0 }, point := .jpegDc }

/-- The block of component `c` at column `bx`, row `by` of the MCU (R378, R379). -/
def beginScanBlock (c bx by_ : Nat) (s : State) : State :=
  beginBlock c (scanComp s.jdec c).td (scanComp s.jdec c).ta { s with jc := { s.jc with bx := bx, by_ := by_ } }

/-- The body of an MCU, after the restart test (R378). -/
def enterMcu (s : State) : State :=
  beginScanBlock 0 0 0 { s with
    jdec := { s.jdec with
      mcuLeft := if s.jdec.restartInterval = 0 then s.jdec.mcuLeft else s.jdec.mcuLeft - 1 } }

/-- An MCU: a restart marker first, when one is due (R378, R383). -/
def beginMcu (mx my : Nat) (s : State) : State :=
  let t := { s with jc := { s.jc with mx := mx, my := my } }
  if s.jdec.restartInterval ≠ 0 ∧ s.jdec.mcuLeft = 0 then { t with point := .jpegRestart } else enterMcu t

/-- `JC_RESET` at index `p` (45_jpeg_entropy.md R308). -/
def resetEntropy (p : Nat) (s : State) : State :=
  { s with pred := List.replicate 3 0, jbr := { pos := p, acc := 0#8, cnt := 0 }, jbrLive := true }

/-- The start of `decode_scan()` (R378). -/
def beginScan (s : State) : State :=
  let t := resetEntropy s.jdec.pos s
  beginMcu 0 0 { t with jdec := { t.jdec with mcuLeft := t.jdec.restartInterval, rstNext := 0 } }

/-- `end_of_scan()` (R386), then the last line of R373. -/
def endScan (s : State) : State :=
  { s with
    jbr := { s.jbr with cnt := 0 }, jdec := { s.jdec with pos := s.jbr.pos, seenSos := true }, point := .jpegMarker }

/-- After a block: the next one in the order of R378, or the end of the scan. -/
def nextBlock (s : State) : State :=
  let j := s.jc
  if j.bx + 1 < factorH s.jdec j.c then beginScanBlock j.c (j.bx + 1) j.by_ s
  else if j.by_ + 1 < factorV s.jdec j.c then beginScanBlock j.c 0 (j.by_ + 1) s
  else if j.c + 1 < s.jdec.ncomp then beginScanBlock (j.c + 1) 0 0 s
  else if j.mx + 1 < mcusAcross s.jdec then beginMcu (j.mx + 1) j.my s
  else if j.my + 1 < mcusDown s.jdec then beginMcu 0 (j.my + 1) s
  else endScan s

/-- The effect of a restart marker (R384, R385), then the MCU; JBR is empty after it (10_state.md R54,
45_jpeg_entropy.md R308). -/
def takeRestart (s : State) : State :=
  enterMcu { s with
    jbr := { pos := s.jbr.pos + 2, acc := 0#8, cnt := 0 }, pred := List.replicate 3 0,
    jdec := { s.jdec with rstNext := (s.jdec.rstNext + 1) % 8, mcuLeft := s.jdec.restartInterval } }

/-- The end of a block decode: of the command `JC_BLOCK` (45_jpeg_entropy.md R310), or of a block of a scan
(R379), which goes on through JDQ and JIDCT. -/
def blockDone (s : State) : Out :=
  match s.running with
  | some (.block _) => .next (endOk { s with resValue := BitVec.ofInt 32 (s.coef.getD 0 0) })
  | some (.jpeg _) =>
    (dequantize (frameComp s.jdec s.jc.c).tq s).run fun _ t => .next (nextBlock (placeBlock (transform t)))
  | _ => .fault .noRunningCall

/-- The sample of component `i` for pixel `(x, y)` (R387). -/
def pixelSample (s : State) (i x y : Nat) : Byte :=
  Memory.read (s.plane.getD i [])
    (planeAddress s.jdec i (y * factorV s.jdec i / maxV s.jdec) (x * factorH s.jdec i / maxH s.jdec))

/-- The three bytes of a pixel (R388). -/
def pixelBytes (s : State) (x y : Nat) : List Byte :=
  if s.jdec.ncomp = 1 then List.replicate 3 (pixelSample s 0 x y)
  else
    [colorR (pixelSample s 0 x y) (pixelSample s 2 x y),
      colorG (pixelSample s 0 x y) (pixelSample s 1 x y) (pixelSample s 2 x y),
      colorB (pixelSample s 0 x y) (pixelSample s 1 x y)]

/-- `assemble()` (R388). -/
def assemble (s : State) : List Byte :=
  (List.range s.jdec.height).flatMap fun y => (List.range s.jdec.width).flatMap fun x => pixelBytes s x y

end Sys2Proof.Machine
end

