-- ==== Sys2Proof/Machine/Jpeg.lean ====
section
/-! DEFINITION. JDEC (48_jpeg_decoder.md): the command and the markers. -/

namespace Sys2Proof.Machine

/-- `JPEG_DECODE` (R360), with what R442 and the table of 10_state.md R57 add for it (`T_USER`: log 12). -/
def execJpegDecode (s : State) : Out :=
  whenIdle s (.next { beginStream (.jpeg none) s with
    tUser := s.tUser.invalidate,
    jdec := .init, qtDef := List.replicate 4 false, qtPrec := List.replicate 4 false,
    jdc := s.jdc.map Tree.invalidate, jac := s.jac.map Tree.invalidate, pred := List.replicate 3 0, point := .jpegSoi })

/-- Back to the marker loop of R360. -/
def nextMarker (s : State) : State := { s with point := .jpegMarker }

/-- `segment()` (R363): the payload, and `JDEC.POS` after it. -/
def segment (s : State) : Res (List Byte) :=
  let p := s.jdec.pos
  let l := be16 (inByte s p) (inByte s (p + 1))
  if inLength s - p < 2 then .fail .truncatedStream s
  else if l < 2 then .fail .malformedContainer s
  else if inLength s - p < l then .fail .truncatedStream s
  else .ok (inBytes s (p + 2) (l - 2)) { s with jdec := { s.jdec with pos := p + l } }

/-- The first test that holds gives the kind. -/
def firstFail : List (Bool × FailKind) → Option FailKind
  | [] => none
  | (c, k) :: rest => if c then some k else firstFail rest

/-- Go on when no test holds. -/
def unlessFail (checks : List (Bool × FailKind)) (s : State) (k : Out) : Out :=
  match firstFail checks with
  | some kind => raise kind s
  | none => k

/-- `M_SOI` (R361); a second one fails (R372). -/
def execMSoi (s : State) : Out :=
  if s.jdec.seenSoi then raise .malformedContainer s
  else .next (nextMarker { s with jdec := { s.jdec with pos := 2, seenSoi := true } })

/-- `M_EOI` (R371), then the assembly and the record of R360. -/
def execMEoi (s : State) : Out :=
  let t := { s with jdec := { s.jdec with seenEoi := true } }
  if s.jdec.seenSos = false then raise .malformedContainer t
  else
    .next (endJpeg { t with
      out := assemble s, resWidth := BitVec.ofNat 32 s.jdec.width, resHeight := BitVec.ofNat 32 s.jdec.height,
      resChannels := 3#8, resLen := resLenOf (s.jdec.width * s.jdec.height * 3) })

/-- The frame components in a payload (R365). -/
def parseFrameComps : List Byte → List FrameComp
  | id :: hv :: tq :: rest => { id := id, h := highNibble hv, v := lowNibble hv, tq := tq.toNat } :: parseFrameComps rest
  | _ => []

/-- `check_frame_counts()` (R367). -/
def frameCountChecks (d : Jdec) : List (Bool × FailKind) :=
  [(d.precision != 8#8, .unsupportedFeature), (d.width == 0, .malformedContainer), (d.height == 0, .unsupportedFeature),
    (d.ncomp == 0, .malformedContainer), (d.ncomp == 2 || decide (3 < d.ncomp), .unsupportedFeature)]

/-- Whether a list holds a value twice. -/
def hasRepeat : List Byte → Bool
  | [] => false
  | x :: rest => rest.contains x || hasRepeat rest

/-- A sampling factor outside 1..4 (R367). -/
def badFactor (n : Nat) : Bool := n == 0 || decide (4 < n)

/-- `check_frame_components()` (R367). -/
def frameCompChecks (d : Jdec) : List (Bool × FailKind) :=
  [(d.comps.any fun c => badFactor c.h || badFactor c.v, .malformedContainer),
    (d.comps.any fun c => decide (3 < c.tq), .malformedContainer),
    (hasRepeat (d.comps.map (·.id)), .malformedContainer),
    (d.ncomp == 3 && (d.comps.any fun c => maxH d % c.h != 0 || maxV d % c.v != 0), .unsupportedFeature)]

/-- The counts of a frame header (R365). -/
def frameHeader (d : Jdec) (payload : List Byte) : Jdec :=
  { d with
    precision := payload.getD 0 0#8, height := be16 (payload.getD 1 0#8) (payload.getD 2 0#8),
    width := be16 (payload.getD 3 0#8) (payload.getD 4 0#8), ncomp := (payload.getD 5 0#8).toNat }

/-- `M_SOF0` (R365, R367). -/
def execMSof0 (s : State) : Out :=
  (segment s).run fun payload t =>
    unlessFail [(t.jdec.seenSof, .malformedContainer), (decide (payload.length < 6), .malformedContainer)] t <|
    let u := { t with jdec := frameHeader t.jdec payload }
    unlessFail ((payload.length != 6 + 3 * u.jdec.ncomp, .malformedContainer) :: frameCountChecks u.jdec) u <|
    let v := { u with jdec := { u.jdec with comps := parseFrameComps (payload.drop 6) } }
    unlessFail (frameCompChecks v.jdec) v <|
    .next (nextMarker { v with jdec := { v.jdec with seenSof := true } })

/-- `M_SOF1` (R366). -/
def execMSof1 (s : State) : Out := raise .unsupportedFeature s

/-- `M_SOF2` (R366). -/
def execMSof2 (s : State) : Out := raise .unsupportedFeature s

/-- `M_SOF3` (R366). -/
def execMSof3 (s : State) : Out := raise .unsupportedFeature s

/-- `M_SOF5` (R366). -/
def execMSof5 (s : State) : Out := raise .unsupportedFeature s

/-- `M_SOF6` (R366). -/
def execMSof6 (s : State) : Out := raise .unsupportedFeature s

/-- `M_SOF7` (R366). -/
def execMSof7 (s : State) : Out := raise .unsupportedFeature s

/-- `M_SOF9` (R366). -/
def execMSof9 (s : State) : Out := raise .unsupportedFeature s

/-- `M_SOF10` (R366). -/
def execMSof10 (s : State) : Out := raise .unsupportedFeature s

/-- `M_SOF11` (R366). -/
def execMSof11 (s : State) : Out := raise .unsupportedFeature s

/-- `M_SOF13` (R366). -/
def execMSof13 (s : State) : Out := raise .unsupportedFeature s

/-- `M_SOF14` (R366). -/
def execMSof14 (s : State) : Out := raise .unsupportedFeature s

/-- `M_SOF15` (R366). -/
def execMSof15 (s : State) : Out := raise .unsupportedFeature s

/-- The loop of `do_dqt()` over the rest of the payload (R368). -/
def loadQuantTables : Nat → List Byte → State → Res Unit
  | fuel + 1, h :: rest, s =>
    let wide := highNibble h == 1
    let size := if wide then 128 else 64
    if 1 < highNibble h ∨ 3 < lowNibble h ∨ rest.length < size then .fail .malformedContainer s
    else
      (loadQuant (lowNibble h) wide (quantEntries wide (rest.take size)) s).bind fun _ t =>
        loadQuantTables fuel (rest.drop size) t
  | _, _, s => .ok () s

/-- `M_DQT` (R368). -/
def execMDqt (s : State) : Out :=
  (segment s).run fun payload t => (loadQuantTables payload.length payload t).run fun _ u => .next (nextMarker u)

/-- `M_DRI` (R369). -/
def execMDri (s : State) : Out :=
  (segment s).run fun payload t =>
    unlessFail [(payload.length != 2, .malformedContainer)] t <|
    .next (nextMarker { t with
      jdec := { t.jdec with restartInterval := be16 (payload.getD 0 0#8) (payload.getD 1 0#8) } })

/-- The loop of `do_dht()` over the rest of the payload (R370). -/
def loadHuffTables : Nat → List Byte → State → Out
  | fuel + 1, h :: rest, s =>
    let counts := (rest.take 16).map (·.toNat)
    if 1 < highNibble h ∨ 3 < lowNibble h ∨ rest.length < 16 then raise .malformedContainer s
    else if 256 < counts.sum ∨ rest.length - 16 < counts.sum then raise .malformedContainer s
    else if jadmitted counts then
      loadHuffTables fuel (rest.drop (16 + counts.sum))
        (releaseJhuf (setJpegSlot s (8 + 4 * highNibble h + lowNibble h)
          (jbuildTree counts (((rest.drop 16).take counts.sum).map (·.toNat)))))
    else .refused .lengthsNotAdmitted
  | _, _, s => .next (nextMarker s)

/-- `M_DHT` (R370). -/
def execMDht (s : State) : Out :=
  (segment s).run fun payload t => loadHuffTables payload.length payload t

/-- The scan components in a payload (R373). -/
def parseScanComps : Nat → List Byte → List ScanComp
  | n + 1, cs :: tt :: rest => { cs := cs, td := highNibble tt, ta := lowNibble tt } :: parseScanComps n rest
  | _, _ => []

/-- The scan header (R373). -/
def scanHeader (d : Jdec) (payload : List Byte) : Jdec :=
  let ns := (payload.getD 0 0#8).toNat
  let o := 1 + 2 * ns
  { d with
    ns := ns, scanComps := parseScanComps ns (payload.drop 1), ss := (payload.getD o 0#8).toNat,
    se := (payload.getD (o + 1) 0#8).toNat, ah := highNibble (payload.getD (o + 2) 0#8),
    al := lowNibble (payload.getD (o + 2) 0#8) }

/-- The component tests of the loop in R373; all have one kind. -/
def scanCompsMatch (d : Jdec) : Bool :=
  (List.range d.ns).all fun j =>
    (scanComp d j).cs == (frameComp d j).id && decide ((scanComp d j).td ≤ 3) && decide ((scanComp d j).ta ≤ 3)

/-- `check_tables()` (R376). -/
def tablesReady (s : State) : Bool :=
  (List.range s.jdec.ns).all fun j =>
    quantDefined s (frameComp s.jdec j).tq && dcValid s (scanComp s.jdec j).td && acValid s (scanComp s.jdec j).ta

/-- `M_SOS` (R373 to R378). -/
def execMSos (s : State) : Out :=
  (segment s).run fun payload t =>
    unlessFail [(!t.jdec.seenSof, .malformedContainer), (t.jdec.seenSos, .unsupportedFeature),
      (payload.length == 0, .malformedContainer)] t <|
    let u := { t with jdec := scanHeader t.jdec payload }
    unlessFail [(payload.length != 4 + 2 * u.jdec.ns, .malformedContainer), (u.jdec.ns != u.jdec.ncomp, .unsupportedFeature),
      (!scanCompsMatch u.jdec, .malformedContainer),
      (u.jdec.ss != 0 || u.jdec.se != 63 || u.jdec.ah != 0 || u.jdec.al != 0, .unsupportedFeature),
      (!tablesReady u, .invalidTable)] u <|
    .next (beginScan u)

/-- `M_RSTn`: the restart where marker `n` is due (R384), else an error (R372, R384). -/
def execMRst (n : BitVec 3) (s : State) : Out :=
  if s.point = .jpegRestart ∧ n.toNat = s.jdec.rstNext then .next (takeRestart s) else raise .malformedContainer s

/-- `M_OTHER` (R364). -/
def execMOther (_ : Byte) (s : State) : Out := (segment s).run fun _ t => .next (nextMarker t)

end Sys2Proof.Machine
end

