-- ==== Sys2Proof/Machine/JpegEntropy.lean ====
section
/-! DEFINITION. JHUF and JCOEF (45_jpeg_entropy.md): table builds, the start and the symbols of a block. -/

namespace Sys2Proof.Machine

/-- The 16 counts at the start of the input (R301). -/
def inputCounts (s : State) : List Nat := (inBytes s 0 16).map (·.toNat)

/-- The symbols that follow them (R301). -/
def inputSymbols (s : State) : List Nat := (inBytes s 16 (inputCounts s).sum).map (·.toNat)

/-- `JHUF_BUILD` (R301). -/
def execJhufBuild (s : State) : Out :=
  whenIdle s <|
    if s.arg0.toNat < 8 ∨ 15 < s.arg0.toNat ∨ 256 < (inputCounts s).sum ∨ inLength s < 16 + (inputCounts s).sum then
      .refused .operandOutOfRange
    else if jadmitted (inputCounts s) then
      .next (endOk (releaseJhuf
        (setJpegSlot (beginCall .plain s) s.arg0.toNat (jbuildTree (inputCounts s) (inputSymbols s)))))
    else .refused .lengthsNotAdmitted

/-- `JC_RESET` (R308). -/
def execJcReset (s : State) : Out :=
  whenIdle s <|
    if inLength s < s.arg0.toNat then .refused .operandOutOfRange
    else .next (endOk (resetEntropy s.arg0.toNat (beginCall .plain s)))

/-- The DC table id of `JC_BLOCK` (R310). -/
def blockTd (s : State) : Nat := s.arg1.toNat % 16

/-- The AC table id of `JC_BLOCK` (R310). -/
def blockTa (s : State) : Nat := s.arg1.toNat / 16 % 16

/-- `JC_BLOCK` (R310). -/
def execJcBlock (s : State) : Out :=
  whenIdle s <|
    if s.jbrLive = false then .refused .cursorAfterFailure
    else if 2 < s.arg0.toNat ∨ 3 < blockTd s ∨ 3 < blockTa s then .refused .operandOutOfRange
    else if dcValid s (blockTd s) = false ∨ acValid s (blockTa s) = false then .refused .treeNotValid
    else .next (beginBlock s.arg0.toNat (blockTd s) (blockTa s) (beginCall (.block s.arg0.toNat) s))

/-- The test of the AC loop (R310). -/
def acLoop (s : State) : Out :=
  if s.jc.k ≤ 63 then .next { s with point := .jpegAc } else blockDone s

/-- Store the DC coefficient (R310, R312). -/
def storeDc (diff : Int) (s : State) : State :=
  { s with
    pred := s.pred.set s.jc.c (s.pred.getD s.jc.c 0 + diff), coef := s.coef.set 0 (s.pred.getD s.jc.c 0 + diff),
    jc := { s.jc with k := 1 } }

/-- `DC_CAT` (R311). -/
def execDcCat (t : BitVec 4) (s : State) : Out :=
  (receive t.toNat s).run fun m u => acLoop (storeDc (extend m t.toNat) u)

/-- `DC_INVALID` (R311). -/
def execDcInvalid (_ : Byte) (s : State) : Out := raise .invalidCode s

/-- `AC_EOB` (R313). -/
def execAcEob (s : State) : Out := blockDone s

/-- `AC_ZRL` (R314). -/
def execAcZrl (s : State) : Out := acLoop { s with jc := { s.jc with k := s.jc.k + 16 } }

/-- `AC_RUNSIZE` (R315): the position test comes before the magnitude bits. -/
def execAcRunsize (rs : Byte) (s : State) : Out :=
  let k := s.jc.k + highNibble rs
  if 63 < k then raise .invalidCode { s with jc := { s.jc with k := k } }
  else
    (receive (lowNibble rs) s).run fun m u =>
      acLoop { u with coef := u.coef.set k (extend m (lowNibble rs)), jc := { u.jc with k := k + 1 } }

end Sys2Proof.Machine
end

