-- ==== Sys2Proof/Machine/Zlib.lean ====
section
/-! DEFINITION. ZLB (43_zlib.md): the command and the header. The Adler-32 check at the end is in
Containers.lean. -/

namespace Sys2Proof.Machine

/-- Where the sequence `S` lies: in `IDAT` when PNG calls ZLB (R240; 44_png.md R273), else in `IN`. -/
def zlibSpace (s : State) : Space := if s.running = some .png then .idat else .input

/-- The length `n` of `S`. -/
def zlibLength (s : State) : Nat := if s.running = some .png then s.idat.length else inLength s

/-- `S[i]`. -/
def zlibByte (s : State) (i : Nat) : Byte :=
  if s.running = some .png then s.idat.getD i 0#8 else inByte s i

/-- The start of ZLB (R240, R241): a sequence below 6 bytes fails, else the header is fetched. -/
def beginZlib (s : State) : Out :=
  if zlibLength s < 6 then raise .truncatedStream s else .next { s with point := .zlibHdr }

/-- `ZLB_DECOMPRESS` (R240). -/
def execZlbDecompress (s : State) : Out := whenIdle s (beginZlib (beginStream .zlib s))

/-- `check_header()` (R241, R243): the first check that fails gives the kind. -/
def zlibHeaderFail (cmf flg : Byte) : Option FailKind :=
  if lowNibble cmf ≠ 8 then some .malformedContainer
  else if be16 cmf flg % 31 ≠ 0 then some .malformedContainer
  else if flg.getLsbD 5 then some .unsupportedFeature
  else none

/-- `ZLB.expected` (R242): the last four bytes, big-endian. -/
def zlibTrailer (s : State) : Word :=
  let n := zlibLength s
  BitVec.ofNat 32 (be32 (zlibByte s (n - 4)) (zlibByte s (n - 3)) (zlibByte s (n - 2)) (zlibByte s (n - 1)))

/-- `ZLIB_HDR` (R241 to R244): after the checks INF starts on the body `S[2 .. n-4)`. -/
def execZlibHdr (cmf flg : Byte) (s : State) : Out :=
  let t := { s with zlb := { s.zlb with cmf := cmf, flg := flg } }
  match zlibHeaderFail cmf flg with
  | some k => raise k t
  | none =>
    .next { bindBr (zlibSpace s) 2 (zlibLength s - 6) t with
      zlb := { t.zlb with expected := zlibTrailer s }, inf := .init, out := [], point := .blockHdr }

end Sys2Proof.Machine
end

