-- ==== Sys2Proof/Machine/Png.lean ====
section
/-! DEFINITION. PNG (44_png.md): the command, the chunks, the header, the filters and the pixel conversion. -/

namespace Sys2Proof.Machine

/-- `PNG_DECODE` (R260), with what R442 adds for it. -/
def execPngDecode (s : State) : Out :=
  whenIdle s (.next { beginStream .png s with png := .init, idat := [], raw := [], point := .pngSignature })

/-- `PNG_SIGNATURE` (R261). -/
def execPngSignature (s : State) : Out :=
  .next { s with png := { s.png with pos := 8 }, point := .pngChunk }

/-- Byte `i` of the current chunk's data (R262). -/
def chunkByte (s : State) (i : Nat) : Byte := inByte s (s.png.pos + 8 + i)

/-- The data of the current chunk (R262). -/
def chunkData (s : State) : List Byte := inBytes s (s.png.pos + 8) s.png.chunkLength

/-- The end of the loop body of R260: the next chunk. -/
def nextChunk (s : State) : State :=
  { s with png := { s.png with pos := s.png.pos + 12 + s.png.chunkLength }, point := .pngChunk }

/-- `CHUNK_IHDR` (R265), the checks before the payload. -/
def execChunkIhdr (s : State) : Out :=
  if s.png.seenIhdr then raise .malformedContainer s
  else if s.png.chunkLength ≠ 13 then raise .malformedContainer s
  else .next { s with point := .pngIhdr }

/-- `IHDR_PAYLOAD` (R265): the fields, then the size check; the supported check follows. -/
def execIhdrPayload (width height : Word) (depth color compression filter interlace : Byte) (s : State) : Out :=
  let t := { s with png := { s.png with
    width := width, height := height, bitDepth := depth, colorType := color, compression := compression,
    filterMethod := filter, interlace := interlace } }
  if width = 0#32 ∨ height = 0#32 then raise .malformedContainer t else .next { t with point := .pngCheck }

/-- Three bytes a palette entry (R269). -/
def paletteOf : List Byte → List Rgb
  | r :: g :: b :: rest => { r := r, g := g, b := b } :: paletteOf rest
  | _ => []

/-- `CHUNK_PLTE` (R269). -/
def execChunkPlte (s : State) : Out :=
  if s.png.seenIhdr = false ∨ s.png.seenPlte then raise .malformedContainer s
  else if s.png.chunkLength = 0 ∨ s.png.chunkLength % 3 ≠ 0 ∨ 768 < s.png.chunkLength then raise .malformedContainer s
  else .next (nextChunk { s with png := { s.png with plte := paletteOf (chunkData s), seenPlte := true } })

/-- `CHUNK_IDAT` (R270). -/
def execChunkIdat (s : State) : Out :=
  if s.png.seenIhdr = false then raise .malformedContainer s
  else .next (nextChunk { s with idat := s.idat ++ chunkData s, png := { s.png with seenIdat := true } })

/-- `CHUNK_IEND` (R271), then the call of ZLB on `IDAT` (R273). -/
def execChunkIend (s : State) : Out :=
  if s.png.seenIhdr = false then raise .malformedContainer s
  else beginZlib { s with running := some .png }

/-- `CHUNK_OTHER` (R272). -/
def execChunkOther (_ : Word) (s : State) : Out := .next (nextChunk s)

/-! The colour type is acted on twice (log 27): at the header check (R266 to R268) and at the conversion
(R283 to R287). -/

/-- `check_supported()` (R266 to R268) for a colour type with these legal depths, then the end of
`do_ihdr` (R265). -/
def checkHeader (legal : List Nat) (s : State) : Out :=
  if !legal.contains s.png.bitDepth.toNat then raise .unsupportedFeature s
  else if s.png.bitDepth = 16#8 then raise .unsupportedFeature s
  else if s.png.interlace ≠ 0#8 then raise .unsupportedFeature s
  else if s.png.compression ≠ 0#8 ∨ s.png.filterMethod ≠ 0#8 then raise .unsupportedFeature s
  else .next (nextChunk { s with png := { s.png with seenIhdr := true } })

/-- Sample `i` of a row at depth `d` (R283). -/
def rowSample (d : Nat) (row : List Byte) (i : Nat) : Nat :=
  (row.getD (i * d / 8) 0#8).toNat / 2 ^ (8 - d - i * d % 8) % 2 ^ d

/-- `scale(v)` at depth `d` (R285). -/
def scaleGray (d v : Nat) : Byte := BitVec.ofNat 8 (if d = 8 then v else v * 255 / (2 ^ d - 1))

/-- A grayscale row (R285). -/
def grayRow (p : Png) (row : List Byte) : List Byte :=
  (List.range p.width.toNat).flatMap fun i =>
    List.replicate 3 (scaleGray p.bitDepth.toNat (rowSample p.bitDepth.toNat row i))

/-- A grayscale row with alpha (R285). -/
def grayAlphaRow (p : Png) (row : List Byte) : List Byte :=
  (List.range p.width.toNat).flatMap fun i => List.replicate 3 (row.getD (2 * i) 0#8) ++ [row.getD (2 * i + 1) 0#8]

/-- One palette look-up (R286). -/
def paletteBytes (plte : List Rgb) (i : Nat) : Option (List Byte) :=
  (plte[i]?).map fun c => [c.r, c.g, c.b]

/-- Join the parts, if all are there. -/
def joinAll : List (Option (List Byte)) → Option (List Byte)
  | [] => some []
  | none :: _ => none
  | some x :: rest => (joinAll rest).map (x ++ ·)

/-- An indexed row (R286), or none when an index exceeds the palette. -/
def indexedRow (p : Png) (row : List Byte) : Option (List Byte) :=
  joinAll ((List.range p.width.toNat).map fun i => paletteBytes p.plte (rowSample p.bitDepth.toNat row i))

/-- The end of a decode: the record of R260 and R287 with `ch` channels. -/
def finishPng (ch : Nat) (pixels : List Byte) (s : State) : Out :=
  .next (endZlib { s with
    out := pixels, resWidth := s.png.width, resHeight := s.png.height, resChannels := BitVec.ofNat 8 ch,
    resLen := resLenOf (s.png.width.toNat * s.png.height.toNat * ch) })

/-- `convert_all()` with a conversion of one row that can fail (R286). -/
def convertRows (ch : Nat) (f : List Byte → Option (List Byte)) (s : State) : Out :=
  match joinAll (s.png.image.map f) with
  | some pixels => finishPng ch pixels s
  | none => raise .malformedContainer s

/-- `CT_GRAY` (R266, R285). -/
def execCtGray (s : State) : Out :=
  if s.point = .pngConvert then convertRows 3 (fun row => some (grayRow s.png row)) s
  else checkHeader [1, 2, 4, 8, 16] s

/-- `CT_TRUECOLOR` (R266, R284). -/
def execCtTruecolor (s : State) : Out :=
  if s.point = .pngConvert then convertRows 3 some s else checkHeader [8, 16] s

/-- `CT_INDEXED` (R266, R286). -/
def execCtIndexed (s : State) : Out :=
  if s.point = .pngConvert then convertRows 3 (indexedRow s.png) s else checkHeader [1, 2, 4, 8] s

/-- `CT_GRAY_ALPHA` (R266, R285). -/
def execCtGrayAlpha (s : State) : Out :=
  if s.point = .pngConvert then convertRows 4 (fun row => some (grayAlphaRow s.png row)) s else checkHeader [8, 16] s

/-- `CT_TRUECOLOR_ALPHA` (R266, R284). -/
def execCtTruecolorAlpha (s : State) : Out :=
  if s.point = .pngConvert then convertRows 4 some s else checkHeader [8, 16] s

/-- `CT_INVALID` (R266): no legal depth. -/
def execCtInvalid (_ : Byte) (s : State) : Out := raise .unsupportedFeature s

/-! Filters. -/

/-- `PaethPredictor(a, b, c)` (R280). -/
def paeth (a b c : Byte) : Byte :=
  let p : Int := (a.toNat : Int) + b.toNat - c.toNat
  let pa := (p - a.toNat).natAbs
  let pb := (p - b.toNat).natAbs
  let pc := (p - c.toNat).natAbs
  if pa ≤ pb ∧ pa ≤ pc then a else if pb ≤ pc then b else c

/-- `(a + b) // 2` without wrap (R279). -/
def average (a b : Byte) : Byte := BitVec.ofNat 8 ((a.toNat + b.toNat) / 2)

/-- Byte `x - bpp` of a row, 0 where out of range (R275). -/
def leftByte (bpp : Nat) (row : List Byte) (x : Nat) : Byte := if bpp ≤ x then row.getD (x - bpp) 0#8 else 0#8

/-- The bytes of a row from column `cur.length` on (R275): each is the filtered byte plus the prediction. -/
def unfilterFrom (pred : Byte → Byte → Byte → Byte) (bpp : Nat) (prev : List Byte) : List Byte → List Byte → List Byte
  | [], cur => cur
  | f :: rest, cur =>
    unfilterFrom pred bpp prev rest
      (cur ++ [f + pred (leftByte bpp cur cur.length) (prev.getD cur.length 0#8) (leftByte bpp prev cur.length)])

/-- A reconstructed row from its filtered bytes (R275). -/
def unfilterRow (pred : Byte → Byte → Byte → Byte) (bpp : Nat) (prev raw : List Byte) : List Byte :=
  unfilterFrom pred bpp prev raw []

/-- The filtered bytes of row `r` (R274). -/
def rawRow (s : State) : List Byte :=
  (s.raw.drop (pngRowStart s.png s.png.row + 1)).take (pngRowBytes s.png)

/-- After a row: the next row, or the conversion (R275). -/
def nextRow (cur : List Byte) (s : State) : State :=
  { s with
    png := { s.png with cur := cur, prev := cur, image := s.png.image ++ [cur], row := s.png.row + 1 },
    point := if s.png.row + 1 < s.png.height.toNat then .pngRow else .pngConvert }

/-- The row `PNG.row` reconstructed with a predictor (R275). -/
def reconstructRow (pred : Byte → Byte → Byte → Byte) (s : State) : Out :=
  .next (nextRow (unfilterRow pred (pngBpp s.png) s.png.prev (rawRow s)) s)

/-- `FILTER_NONE` (R276). -/
def execFilterNone (s : State) : Out := reconstructRow (fun _ _ _ => 0#8) s

/-- `FILTER_SUB` (R277). -/
def execFilterSub (s : State) : Out := reconstructRow (fun a _ _ => a) s

/-- `FILTER_UP` (R278). -/
def execFilterUp (s : State) : Out := reconstructRow (fun _ b _ => b) s

/-- `FILTER_AVERAGE` (R279). -/
def execFilterAverage (s : State) : Out := reconstructRow (fun a b _ => average a b) s

/-- `FILTER_PAETH` (R280). -/
def execFilterPaeth (s : State) : Out := reconstructRow paeth s

/-- `FILTER_INVALID` (R281). -/
def execFilterInvalid (_ : Byte) (s : State) : Out := raise .malformedContainer s

end Sys2Proof.Machine
end

