-- ==== Sys2Proof/Machine/Dispatch.lean ====
section
/-! DEFINITION. One arm per instruction: its meaning. -/

namespace Sys2Proof.Machine

/-- What an instruction does to a state. -/
def exec (i : Instr) (s : State) : Host.Outcome State Fault Refusal :=
  match i with
  | .brReset => Sys2Proof.Machine.execBrReset s
  | .brReadbits => Sys2Proof.Machine.execBrReadbits s
  | .brReadbit => Sys2Proof.Machine.execBrReadbit s
  | .brReadbitsRev => Sys2Proof.Machine.execBrReadbitsRev s
  | .brAlign => Sys2Proof.Machine.execBrAlign s
  | .brReadbytes => Sys2Proof.Machine.execBrReadbytes s
  | .hufBuild => Sys2Proof.Machine.execHufBuild s
  | .hufBuildFixed => Sys2Proof.Machine.execHufBuildFixed s
  | .hufDecode => Sys2Proof.Machine.execHufDecode s
  | .infDecompress => Sys2Proof.Machine.execInfDecompress s
  | .zlbDecompress => Sys2Proof.Machine.execZlbDecompress s
  | .pngDecode => Sys2Proof.Machine.execPngDecode s
  | .jhufBuild => Sys2Proof.Machine.execJhufBuild s
  | .jcReset => Sys2Proof.Machine.execJcReset s
  | .jcBlock => Sys2Proof.Machine.execJcBlock s
  | .jdqLoad => Sys2Proof.Machine.execJdqLoad s
  | .jdqBlock => Sys2Proof.Machine.execJdqBlock s
  | .jidctBlock => Sys2Proof.Machine.execJidctBlock s
  | .jccPixel => Sys2Proof.Machine.execJccPixel s
  | .jccGray => Sys2Proof.Machine.execJccGray s
  | .jpegDecode => Sys2Proof.Machine.execJpegDecode s
  | .blockStored bfinal => Sys2Proof.Machine.execBlockStored bfinal s
  | .blockFixed bfinal => Sys2Proof.Machine.execBlockFixed bfinal s
  | .blockDynamic bfinal => Sys2Proof.Machine.execBlockDynamic bfinal s
  | .blockReserved bfinal => Sys2Proof.Machine.execBlockReserved bfinal s
  | .storedLenNlen len nlen => Sys2Proof.Machine.execStoredLenNlen len nlen s
  | .dynCounts hlit hdist hclen => Sys2Proof.Machine.execDynCounts hlit hdist hclen s
  | .clLen v => Sys2Proof.Machine.execClLen v s
  | .clRep => Sys2Proof.Machine.execClRep s
  | .clZero3 => Sys2Proof.Machine.execClZero3 s
  | .clZero11 => Sys2Proof.Machine.execClZero11 s
  | .lit v => Sys2Proof.Machine.execLit v s
  | .eob => Sys2Proof.Machine.execEob s
  | .len257 => Sys2Proof.Machine.execLen257 s
  | .len258 => Sys2Proof.Machine.execLen258 s
  | .len259 => Sys2Proof.Machine.execLen259 s
  | .len260 => Sys2Proof.Machine.execLen260 s
  | .len261 => Sys2Proof.Machine.execLen261 s
  | .len262 => Sys2Proof.Machine.execLen262 s
  | .len263 => Sys2Proof.Machine.execLen263 s
  | .len264 => Sys2Proof.Machine.execLen264 s
  | .len265 => Sys2Proof.Machine.execLen265 s
  | .len266 => Sys2Proof.Machine.execLen266 s
  | .len267 => Sys2Proof.Machine.execLen267 s
  | .len268 => Sys2Proof.Machine.execLen268 s
  | .len269 => Sys2Proof.Machine.execLen269 s
  | .len270 => Sys2Proof.Machine.execLen270 s
  | .len271 => Sys2Proof.Machine.execLen271 s
  | .len272 => Sys2Proof.Machine.execLen272 s
  | .len273 => Sys2Proof.Machine.execLen273 s
  | .len274 => Sys2Proof.Machine.execLen274 s
  | .len275 => Sys2Proof.Machine.execLen275 s
  | .len276 => Sys2Proof.Machine.execLen276 s
  | .len277 => Sys2Proof.Machine.execLen277 s
  | .len278 => Sys2Proof.Machine.execLen278 s
  | .len279 => Sys2Proof.Machine.execLen279 s
  | .len280 => Sys2Proof.Machine.execLen280 s
  | .len281 => Sys2Proof.Machine.execLen281 s
  | .len282 => Sys2Proof.Machine.execLen282 s
  | .len283 => Sys2Proof.Machine.execLen283 s
  | .len284 => Sys2Proof.Machine.execLen284 s
  | .len285 => Sys2Proof.Machine.execLen285 s
  | .lenInvalid second => Sys2Proof.Machine.execLenInvalid second s
  | .dist0 => Sys2Proof.Machine.execDist0 s
  | .dist1 => Sys2Proof.Machine.execDist1 s
  | .dist2 => Sys2Proof.Machine.execDist2 s
  | .dist3 => Sys2Proof.Machine.execDist3 s
  | .dist4 => Sys2Proof.Machine.execDist4 s
  | .dist5 => Sys2Proof.Machine.execDist5 s
  | .dist6 => Sys2Proof.Machine.execDist6 s
  | .dist7 => Sys2Proof.Machine.execDist7 s
  | .dist8 => Sys2Proof.Machine.execDist8 s
  | .dist9 => Sys2Proof.Machine.execDist9 s
  | .dist10 => Sys2Proof.Machine.execDist10 s
  | .dist11 => Sys2Proof.Machine.execDist11 s
  | .dist12 => Sys2Proof.Machine.execDist12 s
  | .dist13 => Sys2Proof.Machine.execDist13 s
  | .dist14 => Sys2Proof.Machine.execDist14 s
  | .dist15 => Sys2Proof.Machine.execDist15 s
  | .dist16 => Sys2Proof.Machine.execDist16 s
  | .dist17 => Sys2Proof.Machine.execDist17 s
  | .dist18 => Sys2Proof.Machine.execDist18 s
  | .dist19 => Sys2Proof.Machine.execDist19 s
  | .dist20 => Sys2Proof.Machine.execDist20 s
  | .dist21 => Sys2Proof.Machine.execDist21 s
  | .dist22 => Sys2Proof.Machine.execDist22 s
  | .dist23 => Sys2Proof.Machine.execDist23 s
  | .dist24 => Sys2Proof.Machine.execDist24 s
  | .dist25 => Sys2Proof.Machine.execDist25 s
  | .dist26 => Sys2Proof.Machine.execDist26 s
  | .dist27 => Sys2Proof.Machine.execDist27 s
  | .dist28 => Sys2Proof.Machine.execDist28 s
  | .dist29 => Sys2Proof.Machine.execDist29 s
  | .distInvalid second => Sys2Proof.Machine.execDistInvalid second s
  | .fixll0to143 sym => Sys2Proof.Machine.execFixll0to143 sym s
  | .fixll144to255 sym => Sys2Proof.Machine.execFixll144to255 sym s
  | .fixll256to279 sym => Sys2Proof.Machine.execFixll256to279 sym s
  | .fixll280to287 sym => Sys2Proof.Machine.execFixll280to287 sym s
  | .fixd0to31 sym => Sys2Proof.Machine.execFixd0to31 sym s
  | .zlibHdr cmf flg => Sys2Proof.Machine.execZlibHdr cmf flg s
  | .pngSignature => Sys2Proof.Machine.execPngSignature s
  | .chunkIhdr => Sys2Proof.Machine.execChunkIhdr s
  | .chunkPlte => Sys2Proof.Machine.execChunkPlte s
  | .chunkIdat => Sys2Proof.Machine.execChunkIdat s
  | .chunkIend => Sys2Proof.Machine.execChunkIend s
  | .chunkOther ty => Sys2Proof.Machine.execChunkOther ty s
  | .ihdrPayload width height depth color compression filter interlace => Sys2Proof.Machine.execIhdrPayload width height depth color compression filter interlace s
  | .ctGray => Sys2Proof.Machine.execCtGray s
  | .ctTruecolor => Sys2Proof.Machine.execCtTruecolor s
  | .ctIndexed => Sys2Proof.Machine.execCtIndexed s
  | .ctGrayAlpha => Sys2Proof.Machine.execCtGrayAlpha s
  | .ctTruecolorAlpha => Sys2Proof.Machine.execCtTruecolorAlpha s
  | .ctInvalid v => Sys2Proof.Machine.execCtInvalid v s
  | .filterNone => Sys2Proof.Machine.execFilterNone s
  | .filterSub => Sys2Proof.Machine.execFilterSub s
  | .filterUp => Sys2Proof.Machine.execFilterUp s
  | .filterAverage => Sys2Proof.Machine.execFilterAverage s
  | .filterPaeth => Sys2Proof.Machine.execFilterPaeth s
  | .filterInvalid v => Sys2Proof.Machine.execFilterInvalid v s
  | .mSoi => Sys2Proof.Machine.execMSoi s
  | .mEoi => Sys2Proof.Machine.execMEoi s
  | .mSof0 => Sys2Proof.Machine.execMSof0 s
  | .mSof1 => Sys2Proof.Machine.execMSof1 s
  | .mSof2 => Sys2Proof.Machine.execMSof2 s
  | .mSof3 => Sys2Proof.Machine.execMSof3 s
  | .mSof5 => Sys2Proof.Machine.execMSof5 s
  | .mSof6 => Sys2Proof.Machine.execMSof6 s
  | .mSof7 => Sys2Proof.Machine.execMSof7 s
  | .mSof9 => Sys2Proof.Machine.execMSof9 s
  | .mSof10 => Sys2Proof.Machine.execMSof10 s
  | .mSof11 => Sys2Proof.Machine.execMSof11 s
  | .mSof13 => Sys2Proof.Machine.execMSof13 s
  | .mSof14 => Sys2Proof.Machine.execMSof14 s
  | .mSof15 => Sys2Proof.Machine.execMSof15 s
  | .mDht => Sys2Proof.Machine.execMDht s
  | .mDqt => Sys2Proof.Machine.execMDqt s
  | .mDri => Sys2Proof.Machine.execMDri s
  | .mSos => Sys2Proof.Machine.execMSos s
  | .mRst n => Sys2Proof.Machine.execMRst n s
  | .mOther code => Sys2Proof.Machine.execMOther code s
  | .dcCat t => Sys2Proof.Machine.execDcCat t s
  | .dcInvalid t => Sys2Proof.Machine.execDcInvalid t s
  | .acEob => Sys2Proof.Machine.execAcEob s
  | .acZrl => Sys2Proof.Machine.execAcZrl s
  | .acRunsize rs => Sys2Proof.Machine.execAcRunsize rs s

end Sys2Proof.Machine
end

