-- ==== Sys2Proof/Machine/Fetch.lean ====
section
/-! DEFINITION. Fetching the next stream element (10_state.md R21): what the running unit reads at its cursor,
with the failures that belong to the reading (42_inflate.md R191, R195, R200, R203, R210, R217; 43_zlib.md R240;
44_png.md R261, R262, R264; 45_jpeg_entropy.md R310; 48_jpeg_decoder.md R361, R362, R384), and the placing of
one element where the machine fetches next. -/

namespace Sys2Proof.Machine

/-- What a fetch gives: the value of a format with the cursor after it, a failure, or a refusal. -/
inductive Fetched where
  | element (f : Format) (w : Nat) (s : State)
  | fail (k : FailKind) (s : State)
  | refuse (r : Refusal)
  deriving Repr

/-- A value that was read, as an element of the format. -/
def Fetched.ofRes (f : Format) : Res Nat → Fetched
  | .ok w s => .element f w s
  | .fail k s => .fail k s

/-- A symbol of a tree slot (41_huffman.md R170). -/
def fetchSymbol (f : Format) (t : Tree) (s : State) : Fetched :=
  if t.valid then .ofRes f (decodeSymbol t s) else .refuse .treeNotValid

/-- A symbol of a JPEG tree slot (45_jpeg_entropy.md R307). -/
def fetchJpegSymbol (f : Format) (t : Tree) (s : State) : Fetched :=
  if t.valid then .ofRes f (jdecode t s) else .refuse .treeNotValid

/-- A literal/length code of the fixed tree as a number (30_encoding.md R110): 7, 8 or 9 bits (log 14). -/
def fixedLitCode (s : State) : Res Nat :=
  if brUnread s < 7 ∨ bitsMsb s (brPos s) 7 ≤ 0x17 then readBitsReversed 7 s
  else if brUnread s < 8 ∨ bitsMsb s (brPos s) 8 ≤ 0xC7 then readBitsReversed 8 s
  else readBitsReversed 9 s

/-- Bytes as a big-endian number (R11). -/
def beNat (bytes : List Byte) : Nat := bytes.foldl (fun n v => n * 256 + v.toNat) 0

/-- The signature (44_png.md R261). -/
def fetchSignature (s : State) : Fetched :=
  if inLength s < 8 then .fail .truncatedStream s
  else if beNat (inBytes s 0 8) ≠ 0x89504E470D0A1A0A then .fail .malformedContainer s
  else .element .pngFile (beNat (inBytes s 0 8)) s

/-- `PNG.chunk.*` from the chunk at `PNG.POS` (44_png.md R262). -/
def latchChunk (s : State) : State :=
  let p := s.png.pos
  let n := beNat (inBytes s p 4)
  { s with png := { s.png with
    chunkLength := n, chunkType := BitVec.ofNat 32 (beNat (inBytes s (p + 4) 4)),
    chunkCrc := BitVec.ofNat 32 (beNat (inBytes s (p + 8 + n) 4)) } }

/-- `fetch_chunk()` and `check_crc()` (44_png.md R262, R264). -/
def fetchChunk (s : State) : Fetched :=
  let p := s.png.pos
  let t := latchChunk s
  if inLength s - p < 8 then .fail .truncatedStream s
  else if inLength s - p - 8 < t.png.chunkLength + 4 then .fail .truncatedStream t
  else if crc32 s.crcT (inBytes s (p + 4) (4 + t.png.chunkLength)) ≠ t.png.chunkCrc then .fail .malformedContainer t
  else .element .pngChunk t.png.chunkType.toNat t

/-- `do_soi()`: the reading (48_jpeg_decoder.md R361). -/
def fetchSoi (s : State) : Fetched :=
  if inLength s < 2 then .fail .truncatedStream s
  else if be16 (inByte s 0) (inByte s 1) ≠ 0xFFD8 then .fail .malformedContainer s
  else .element .jpegMarker 0xFFD8 s

/-- `next_marker()` (48_jpeg_decoder.md R362). -/
def fetchMarker (s : State) : Fetched :=
  let p := s.jdec.pos
  if inLength s - p < 2 then .fail .truncatedStream s
  else if inByte s p ≠ 0xFF#8 ∨ inByte s (p + 1) = 0x00#8 ∨ inByte s (p + 1) = 0xFF#8 then .fail .malformedContainer s
  else .element .jpegMarker (be16 (inByte s p) (inByte s (p + 1))) { s with jdec := { s.jdec with pos := p + 2 } }

/-- `restart()`: the reading (48_jpeg_decoder.md R384). -/
def fetchRestart (s : State) : Fetched :=
  let p := s.jbr.pos
  let t := { s with jbr := { s.jbr with cnt := 0 } }
  if inLength s - p < 2 then .fail .truncatedStream t
  else if inByte s p ≠ 0xFF#8 ∨ (inByte s (p + 1)).toNat ≠ 0xD0 + s.jdec.rstNext then .fail .malformedContainer t
  else .element .jpegMarker (be16 (inByte s p) (inByte s (p + 1))) t

/-- The element at the cursor, by the control point. At rest the element is the command register. -/
def fetch (s : State) : Fetched :=
  match s.point with
  | .idle => .element .cmd s.cmd.toNat s
  | .blockHdr => .ofRes .blockHdr (readBits 3 s)
  | .stored => .ofRes .stored (readBits 32 s)
  | .dynHdr => .ofRes .dynHdr (readBits 14 s)
  | .clen => fetchSymbol .clen s.tCl s
  | .litlenCode =>
    if s.inf.btype = 1#2 then .ofRes .fixedLL (fixedLitCode s) else fetchSymbol .litlen s.tLl s
  | .litlenSym => .element .litlen s.inf.sym s
  | .distCode =>
    if s.inf.btype = 1#2 then .ofRes .fixedD (readBitsReversed 5 s) else fetchSymbol .dist s.tD s
  | .distSym => .element .dist s.inf.sym s
  | .zlibHdr => .element .zlib (be16 (zlibByte s 0) (zlibByte s 1)) s
  | .pngSignature => fetchSignature s
  | .pngChunk => fetchChunk s
  | .pngIhdr => .element .pngIhdr (beNat (inBytes s (s.png.pos + 8) 13)) s
  | .pngCheck => .element .pngColor s.png.colorType.toNat s
  | .pngRow => .element .pngFilter (s.raw.getD (pngRowStart s.png s.png.row) 0#8).toNat s
  | .pngConvert => .element .pngColor s.png.colorType.toNat s
  | .jpegSoi => fetchSoi s
  | .jpegMarker => fetchMarker s
  | .jpegRestart => fetchRestart s
  | .jpegDc => fetchJpegSymbol .jpegDc (s.jdc.getD s.jc.td .absent) s
  | .jpegAc => fetchJpegSymbol .jpegAc (s.jac.getD s.jc.ta .absent) s

/-! Placing one element (log 2): what a loader would put where the next step fetches. -/

/-- A running call at a control point, its stream these bytes and zeros after them. -/
def placeStream (p : Point) (c : Call) (bytes : List Byte) (s : State) : State :=
  { s with
    status := statusBusy, point := p, running := some c, input := Memory.writeAll [] 0 bytes, inLen := 0x20000#32,
    br := { space := .input, base := 0, len := 0x20000, bytePos := 0, bitPos := 0#3 } }

/-- A tree whose one code is the bit 0. -/
def loneTree (sym : Nat) : Tree :=
  { nodes := [{ emptyNode with left := some 1 }, leafNode sym], valid := true }

/-- An element of a format where the next step fetches. -/
def placeElement (f : Format) (w : Nat) (s : State) : State :=
  match f with
  | .cmd => { s with status := statusIdle, point := .idle, running := none, host := .writeReg 0 (BitVec.ofNat 32 w) :: s.host }
  | .blockHdr => placeStream .blockHdr .inflate (layout f w) s
  | .stored => placeStream .stored .inflate (layout f w) s
  | .dynHdr => placeStream .dynHdr .inflate (layout f w) s
  | .clen => { placeStream .clen .inflate [] s with tCl := loneTree w }
  | .litlen => { placeStream .litlenCode .inflate [] s with tLl := loneTree w, inf := { s.inf with btype := 2#2 } }
  | .dist => { placeStream .distCode .inflate [] s with tD := loneTree w, inf := { s.inf with btype := 2#2 } }
  | .fixedLL => { placeStream .litlenCode .inflate (layout f w) s with inf := { s.inf with btype := 1#2 } }
  | .fixedD => { placeStream .distCode .inflate (layout f w) s with inf := { s.inf with btype := 1#2 } }
  | .zlib => placeStream .zlibHdr .zlib (layout f w) s
  | .pngFile => placeStream .pngSignature .png (layout f w) s
  | .pngChunk =>
    { placeStream .pngChunk .png
        (beBytes 4 0 ++ layout f w ++ beBytes 4 (crc32 s.crcT (layout f w)).toNat) s with png := { s.png with pos := 0 } }
  | .pngIhdr =>
    { placeStream .pngIhdr .png (List.replicate 8 0#8 ++ layout f w) s with
      png := { s.png with pos := 0, chunkLength := 13 } }
  | .pngColor => { placeStream .pngCheck .png [] s with png := { s.png with colorType := BitVec.ofNat 8 w } }
  | .pngFilter => { placeStream .pngRow .png [] s with raw := [BitVec.ofNat 8 w], png := { s.png with row := 0 } }
  | .jpegMarker =>
    if 0xFFD0 ≤ w ∧ w ≤ 0xFFD7 then
      { placeStream .jpegRestart (.jpeg none) (layout f w) s with
        jbr := { s.jbr with pos := 0 }, jdec := { s.jdec with rstNext := w - 0xFFD0 } }
    else { placeStream .jpegMarker (.jpeg none) (layout f w) s with jdec := { s.jdec with pos := 0 } }
  | .jpegDc =>
    { placeStream .jpegDc (.block 0) [] s with
      jdc := s.jdc.set s.jc.td (loneTree w), jbr := { pos := 0, acc := 0#8, cnt := 0 } }
  | .jpegAc =>
    { placeStream .jpegAc (.block 0) [] s with
      jac := s.jac.set s.jc.ta (loneTree w), jbr := { pos := 0, acc := 0#8, cnt := 0 } }

end Sys2Proof.Machine
end

