-- ==== Sys2Proof/Machine/HostPort.lean ====
section
/-! DEFINITION. Running what was fetched, and the host's operations between calls (10_state.md R22; 30_encoding.md
R100, R102; 60_exceptions.md R411, R416, R422). -/

namespace Sys2Proof.Machine

/-- Run the element with value `w` of a format. -/
def runElement (f : Format) (w : Nat) (s : State) : Out :=
  match decode f w with
  | .ok i => exec i s
  | .error e => .refused (.noSuchElement e)

/-- Run what was fetched. -/
def runFetched : Fetched → Out
  | .element f w s => runElement f w s
  | .fail k s => raise k s
  | .refuse r => .refused r

/-- A command written to `CMD` (R100): the low 8 bits are the code (log 11). -/
def writeCommand (v : Word) (s : State) : Out :=
  match decode .cmd (v.setWidth 8).toNat with
  | .ok i => exec i { s with cmd := v.setWidth 8 }
  | .error _ => .refused .illegalCommand

/-- A register write by the host (R22). -/
def writeRegister (no : Nat) (v : Word) (s : State) : Out :=
  if no = 0 then writeCommand v s
  else if no = 4 then .next { s with arg0 := v }
  else if no = 5 then .next { s with arg1 := v }
  else if no = 6 then .next { s with inBase := v }
  else if no = 7 then .next { s with inLen := v }
  else if no ≤ 12 then .refused .readOnlyRegister
  else .refused .noSuchRegister

/-- Record what a host read returned. -/
def returnHost (vs : List Int) (s : State) : Out := .next { s with hostRead := s.hostRead ++ vs }

/-- The content of a register the host may read (R22); `DIAG` gives its bytes (log 17). -/
def registerValue (no : Nat) (s : State) : Option (List Int) :=
  if no = 1 then some [(s.status.toNat : Int)]
  else if no = 2 then some [(s.errkind.toNat : Int)]
  else if no = 3 then some (s.diag.map fun b => (b.toNat : Int))
  else if no = 8 then some [(s.resValue.toNat : Int)]
  else if no = 9 then some [(s.resWidth.toNat : Int)]
  else if no = 10 then some [(s.resHeight.toNat : Int)]
  else if no = 11 then some [(s.resChannels.toNat : Int)]
  else if no = 12 then some [(s.resLen.toNat : Int)]
  else none

/-- A register read by the host (R22); the host-write registers 0 and 4 to 7 are not read. -/
def readRegister (no : Nat) (s : State) : Out :=
  match registerValue no s with
  | some vs => returnHost vs s
  | none => .refused (if no ≤ 12 then .writeOnlyRegister else .noSuchRegister)

/-- A flag as a number. -/
def flagInt (b : Bool) : Int := if b then 1 else 0

/-- An element of a unit buffer the host may read (R102): `QT` is indexed `64*t + k`. -/
def bufferValue (buf : HostBuf) (i : Nat) (s : State) : Option Int :=
  match buf with
  | .coef => s.coef[i]?
  | .dq => s.dq[i]?
  | .samp => (s.samp[i]?).map fun b => (b.toNat : Int)
  | .pred => s.pred[i]?
  | .qt => ((s.qt.getD (i / 64) [])[i % 64]?).map fun n => (n : Int)
  | .qtDef => (s.qtDef[i]?).map flagInt
  | .qtPrec => none

/-- A read of a unit buffer by the host (R102). -/
def readBuffer (buf : HostBuf) (i : Nat) (s : State) : Out :=
  match bufferValue buf i s with
  | some v => returnHost [v] s
  | none => .refused .hostAccess

/-- Whether a value fits an element of the buffer (10_state.md R51, R53; log 18). -/
def bufferFits (buf : HostBuf) (v : Int) : Bool :=
  match buf with
  | .coef => true
  | .dq => decide (-32768 ≤ v) && decide (v ≤ 32767)
  | .samp => false
  | .pred => true
  | .qt => decide (0 ≤ v) && decide (v ≤ 65535)
  | .qtDef => v == 0 || v == 1
  | .qtPrec => v == 0 || v == 1

/-- How many elements a buffer has. -/
def bufferSize : HostBuf → Nat
  | .coef => 64
  | .dq => 64
  | .samp => 64
  | .pred => 3
  | .qt => 256
  | .qtDef => 4
  | .qtPrec => 4

/-- The buffer with one element written. -/
def setBuffer (buf : HostBuf) (i : Nat) (v : Int) (s : State) : State :=
  match buf with
  | .coef => { s with coef := s.coef.set i v }
  | .dq => { s with dq := s.dq.set i v }
  | .samp => s
  | .pred => { s with pred := s.pred.set i v }
  | .qt => { s with qt := s.qt.set (i / 64) ((s.qt.getD (i / 64) []).set (i % 64) v.toNat) }
  | .qtDef => { s with qtDef := s.qtDef.set i (v == 1) }
  | .qtPrec => { s with qtPrec := s.qtPrec.set i (v == 1) }

/-- A write of a unit buffer by the host (R102). -/
def writeBuffer (buf : HostBuf) (i : Nat) (v : Int) (s : State) : Out :=
  if i < bufferSize buf ∧ bufferFits buf v then .next (setBuffer buf i v s) else .refused .hostAccess

/-- A read of `OUT` by the host (R32). -/
def readOutput (i : Nat) (s : State) : Out :=
  match s.out[i]? with
  | some b => returnHost [(b.toNat : Int)] s
  | none => .refused .hostAccess

/-- Reset (R440, R422): the host's own things stay (log 19). -/
def resetCore (s : State) : State :=
  { State.reset with input := s.input, host := s.host, hostRead := s.hostRead, draws := s.draws }

/-- One host operation. -/
def runHostOp (op : HostOp) (s : State) : Out :=
  match op with
  | .writeReg no v => writeRegister no v s
  | .readReg no => readRegister no s
  | .writeInput i v => .next { s with input := Memory.write s.input i.toNat v }
  | .readBuf buf i => readBuffer buf i s
  | .writeBuf buf i v => writeBuffer buf i v s
  | .readOut i => readOutput i s
  | .reset => .next (resetCore s)

/-- At rest: the next host operation, if there is one (log 2). -/
def hostStep (s : State) : Out :=
  match s.host with
  | [] => .next s
  | op :: rest => runHostOp op { s with host := rest }

/-- One step: at rest the host's, in a call the next element (log 1). -/
def stepOnce (s : State) : Out :=
  if s.point = .idle then hostStep s else runFetched (fetch s)

end Sys2Proof.Machine
end

