-- ==== Sys2Proof/Machine/Step.lean ====
section
/-! DEFINITION. The step of the machine, and the placing of one instruction where it fetches next. -/

namespace Sys2Proof.Machine

/-- One step of the core and its host. -/
def step (s : State) : Host.Outcome State Fault Refusal := stepOnce s

/-- The state with the instruction of a table word where `step` fetches next (log 2). -/
def State.withFetchWord (s : State) (nbits w : Nat) : State := placeElement (tableFormat nbits w) w s

end Sys2Proof.Machine
end

