-- ==== Sys2Proof/Safety.lean ====
section
/-! DEFINITION. The terms the statements use: when a command is taken, the state after a command but for its
results, the code function of a tree, and the invariants of a run. -/

namespace Sys2Proof.Machine

/-- A command is taken: no call is running (R22, R100). -/
def State.Ready (s : State) : Prop := s.point = .idle ∧ s.status ≠ statusBusy

/-- The state after a successful command, but for what the command's own rule writes (R403, R442). -/
def State.afterOk (s : State) : State :=
  { s with
    status := statusOk, errkind := 0#8, diag := [], resValue := 0#32, resWidth := 0#32, resHeight := 0#32,
    resChannels := 0#8, resLen := 0#32, out := [], point := .idle, running := none }

/-- `code(T)` from a node (R27): the symbol of the leaf that the bits lead to, all of them used. -/
def treeCode (nodes : List Node) : Nat → List Bool → Option Nat
  | _, [] => none
  | n, b :: bs =>
    match childOf nodes n b with
    | none => none
    | some c =>
      match nodes[c]? with
      | none => none
      | some node => if node.kind = .leaf then (if bs = [] then some node.sym else none) else treeCode nodes c bs

/-- The next `n` unread bits of BR, in the order of consumption (R141). -/
def nextBits (s : State) (n : Nat) : List Bool := (List.range n).map fun k => brBit s (brPos s + k)

/-- INF is decoding: the control points of 42_inflate.md. -/
def Point.inflating : Point → Bool
  | .blockHdr => true
  | .stored => true
  | .dynHdr => true
  | .clen => true
  | .litlenCode => true
  | .litlenSym => true
  | .distCode => true
  | .distSym => true
  | _ => false

/-- PNG is scanning chunks or working on rows: the control points of 44_png.md. -/
def Point.inPng : Point → Bool
  | .pngSignature => true
  | .pngChunk => true
  | .pngIhdr => true
  | .pngCheck => true
  | .pngRow => true
  | .pngConvert => true
  | _ => false

/-- JDEC is decoding: the control points of 48_jpeg_decoder.md and 45_jpeg_entropy.md. -/
def Point.inJpeg : Point → Bool
  | .jpegSoi => true
  | .jpegMarker => true
  | .jpegRestart => true
  | .jpegDc => true
  | .jpegAc => true
  | _ => false

/-! Invariants. -/

/-- Every memory is in canonical form. -/
def State.Canonical (s : State) : Prop :=
  Memory.wf s.input = true ∧ Memory.wf s.win = true ∧ ∀ m ∈ s.plane, Memory.wf m = true

/-- The read-only tables hold what reset put there (R28, R41). -/
def State.Constants (s : State) : Prop :=
  s.crcT = crcTable ∧ s.tFixLL = fixedLitTree ∧ s.tFixD = fixedDistTree

/-- `STATUS` and `ERRKIND` are as R22 and R400 allow, and `BUSY` means that a call runs. -/
def State.Legal (s : State) : Prop :=
  s.status.toNat ≤ 3 ∧ s.errkind.toNat ≤ 6 ∧ (s.status = statusBusy ↔ s.point ≠ .idle) ∧
    (s.running = none ↔ s.point = .idle) ∧ (s.status ≠ statusFailed → s.errkind = 0#8)

/-- The cursors are as R24, R54 and R149 allow, as long as no failure has left them unspecified. -/
def State.CursorOk (s : State) : Prop :=
  (s.brLive = true → s.br.bytePos ≤ s.br.len ∧ (s.br.bitPos ≠ 0#3 → s.br.bytePos < s.br.len)) ∧
    (s.jbrLive = true → s.jbr.cnt ≤ 8)

/-- `IDAT` is what BR reads only while a PNG is decoded: after the call, and for every unit command, its buffer is
`IN` (R24, R71, R273, R443). -/
def State.IdatOnlyInPng (s : State) : Prop :=
  s.brLive = true → s.br.space = .idat → s.running = some .png ∧ s.point ≠ .idle

/-- A cursor in some window of an input of `len` bytes (R24). -/
def Br.Inside (b : Br) (len : Nat) : Prop :=
  b.space = .input ∧ b.base + b.len ≤ len ∧ b.bytePos ≤ b.len ∧ (b.bitPos ≠ 0#3 → b.bytePos < b.len)

/-- A cursor of JBR in an input of `len` bytes (R54). -/
def Jbr.Inside (j : Jbr) (len : Nat) : Prop := j.pos ≤ len ∧ j.cnt ≤ 8

/-- The output and the window agree while INF decodes (R215). -/
def State.WindowOk (s : State) : Prop :=
  s.point.inflating = true →
    s.inf.produced = s.out.length ∧ s.inf.wpos = s.inf.produced % 32768 ∧
      ∀ d, 1 ≤ d → d ≤ 32768 → d ≤ s.inf.produced →
        windowByte s d = s.out.getD (s.inf.produced - d) 0#8

/-- The register files have their sizes and their entries fit (R51, R53). -/
def State.Sized (s : State) : Prop :=
  s.qt.length = 4 ∧ (∀ t ∈ s.qt, t.length = 64 ∧ ∀ q ∈ t, q < 65536) ∧ s.qtPrec.length = 4 ∧ s.qtDef.length = 4 ∧
    s.coef.length = 64 ∧ s.dq.length = 64 ∧ (∀ v ∈ s.dq, -32768 ≤ v ∧ v ≤ 32767) ∧ s.samp.length = 64 ∧
    s.pred.length = 3 ∧ s.plane.length = 3 ∧ s.jdc.length = 4 ∧ s.jac.length = 4

/-- A PNG header the hardware accepts (R266 to R268). -/
def Png.Accepted (p : Png) : Prop :=
  p.width ≠ 0#32 ∧ p.height ≠ 0#32 ∧ p.interlace = 0#8 ∧ p.compression = 0#8 ∧ p.filterMethod = 0#8 ∧
    ((p.colorType = 0#8 ∧ p.bitDepth ∈ [1#8, 2#8, 4#8, 8#8]) ∨ (p.colorType = 2#8 ∧ p.bitDepth = 8#8) ∨
      (p.colorType = 3#8 ∧ p.bitDepth ∈ [1#8, 2#8, 4#8, 8#8]) ∨ (p.colorType = 4#8 ∧ p.bitDepth = 8#8) ∨
      (p.colorType = 6#8 ∧ p.bitDepth = 8#8))

/-- While a PNG is decoded, `seen_ihdr` means an accepted header, a header that is still being checked is not yet
seen, and whatever comes after the chunks comes after a seen header (R265, R271). -/
def State.HeaderOk (s : State) : Prop :=
  (s.running = some .png ∨ s.point.inPng = true) →
    (s.png.seenIhdr = true → s.png.Accepted) ∧
      (s.point = .pngIhdr → s.png.seenIhdr = false) ∧
      (s.point = .pngCheck → s.png.seenIhdr = false ∧ s.png.width ≠ 0#32 ∧ s.png.height ≠ 0#32) ∧
      (s.point = .zlibHdr ∨ s.point.inflating = true ∨ s.point = .pngRow ∨ s.point = .pngConvert → s.png.seenIhdr = true)

/-! Reset and failure, as statements say them. -/

/-- Every value that R440 gives. -/
def State.AtReset (s : State) : Prop :=
  (s.status = 0#8 ∧ s.errkind = 0#8 ∧ s.diag = []) ∧
    (s.arg0 = 0#32 ∧ s.arg1 = 0#32 ∧ s.inBase = 0#32 ∧ s.inLen = 0#32) ∧
    (s.resValue = 0#32 ∧ s.resWidth = 0#32 ∧ s.resHeight = 0#32 ∧ s.resChannels = 0#8 ∧ s.resLen = 0#32) ∧
    s.crcT = crcTable ∧
    (s.tFixLL = buildTree fixedLitLengths 15 ∧ s.tFixD = buildTree fixedDistLengths 15) ∧
    (s.tCl.valid = false ∧ s.tLl.valid = false ∧ s.tD.valid = false ∧ s.tUser.valid = false) ∧
    (s.jdc.map (·.valid) = List.replicate 4 false ∧ s.jac.map (·.valid) = List.replicate 4 false) ∧
    (s.qtDef = List.replicate 4 false ∧ s.qtPrec = List.replicate 4 false ∧ s.pred = [0, 0, 0]) ∧
    (s.br.len = 0 ∧ s.br.bytePos = 0 ∧ s.br.bitPos = 0#3 ∧ s.jbr.pos = 0 ∧ s.jbr.acc = 0#8 ∧ s.jbr.cnt = 0) ∧
    (s.inf.bfinal = false ∧ s.inf.btype = 0#2 ∧ s.inf.hlit = 0 ∧ s.inf.hdist = 0 ∧ s.inf.hclen = 0 ∧
      s.inf.clLen = List.replicate 19 0 ∧ s.inf.lens = [] ∧ s.inf.storedLen = 0#16 ∧ s.inf.storedNlen = 0#16 ∧
      s.inf.produced = 0 ∧ s.inf.wpos = 0) ∧
    (s.zlb.cmf = 0#8 ∧ s.zlb.flg = 0#8 ∧ s.zlb.expected = 0#32 ∧ s.zlb.a = 1 ∧ s.zlb.b = 0) ∧
    (s.png.seenIhdr = false ∧ s.png.seenIdat = false ∧ s.png.seenPlte = false ∧ s.png.width = 0#32 ∧
      s.png.height = 0#32 ∧ s.png.bitDepth = 0#8 ∧ s.png.colorType = 0#8 ∧ s.png.compression = 0#8 ∧
      s.png.filterMethod = 0#8 ∧ s.png.interlace = 0#8) ∧
    (s.jdec.pos = 0 ∧ s.jdec.seenSoi = false ∧ s.jdec.seenSof = false ∧ s.jdec.seenSos = false ∧
      s.jdec.seenEoi = false ∧ s.jdec.precision = 0#8 ∧ s.jdec.height = 0 ∧ s.jdec.width = 0 ∧ s.jdec.ncomp = 0 ∧
      s.jdec.ns = 0 ∧ s.jdec.ss = 0 ∧ s.jdec.se = 0 ∧ s.jdec.ah = 0 ∧ s.jdec.al = 0 ∧ s.jdec.restartInterval = 0 ∧
      s.jdec.mcuLeft = 0 ∧ s.jdec.rstNext = 0 ∧ s.jdec.comps = [] ∧ s.jdec.scanComps = []) ∧
    (s.out = [] ∧ s.idat = [] ∧ s.raw = [])

/-- What belongs to the host, and what no call but `HUF_BUILD` writes, is the same in both states. -/
def State.KeepsHost (s t : State) : Prop :=
  t.cmd = s.cmd ∧ t.arg0 = s.arg0 ∧ t.arg1 = s.arg1 ∧ t.inBase = s.inBase ∧ t.inLen = s.inLen ∧ t.input = s.input ∧
    t.host = s.host ∧ t.hostRead = s.hostRead

/-- `t` is the state after a call that was in state `s` failed with kind `k` (R403, R405). -/
def State.FailedFrom (s t : State) (k : FailKind) : Prop :=
  t.status = statusFailed ∧ t.errkind = k.code ∧ t.point = .idle ∧ t.running = none ∧ s.KeepsHost t ∧
    t.tFixLL = s.tFixLL ∧ t.tFixD = s.tFixD ∧ t.crcT = s.crcT ∧ t.tUser = s.tUser

/-- An outcome that is the failure `k` of the call in state `s`. -/
def Fails (o : Out) (s : State) (k : FailKind) : Prop := ∃ t, o = .next t ∧ s.FailedFrom t k

/-- The same for a command that uses a cursor: both cursors are closed to unit commands (R103, R407; log 8). -/
def FailsClosed (o : Out) (s : State) (k : FailKind) : Prop :=
  ∃ t, o = .next t ∧ s.FailedFrom t k ∧ t.brLive = false ∧ t.jbrLive = false

/-- The state after the start of a whole-stream command (R442), with the first thing it fetches. -/
def State.started (c : Call) (p : Point) (s : State) : State :=
  { s with
    status := statusBusy, errkind := 0#8, diag := [], resValue := 0#32, resWidth := 0#32, resHeight := 0#32,
    resChannels := 0#8, resLen := 0#32, out := [], running := some c, point := p,
    br := { space := .input, base := 0, len := s.inLen.toNat, bytePos := 0, bitPos := 0#3 }, brLive := true,
    tCl := { s.tCl with valid := false }, tLl := { s.tLl with valid := false }, tD := { s.tD with valid := false },
    inf := .init, zlb := .init }

/-- The state after a call that ended well, but for its results (R403). -/
def State.ended (s : State) : State :=
  { s with status := statusOk, errkind := 0#8, point := .idle, running := none }

/-- The same for a call that ran INF: its trees are gone (R28, R443). -/
def State.endedInflate (s : State) : State :=
  { s.ended with
    tCl := { s.tCl with valid := false }, tLl := { s.tLl with valid := false }, tD := { s.tD with valid := false } }

/-- The same for a call that handed BR a body: its cursor is gone too, `b` is what BR holds (R71, R443; log 30). -/
def State.endedZlib (b : Br) (s : State) : State := { s.endedInflate with br := b, draws := s.draws + 1 }

/-- The same for `JPEG_DECODE`: both cursors and the tables of the file are gone (R28, R443; log 30). -/
def State.endedJpeg (b : Br) (j : Jbr) (s : State) : State :=
  { s.ended with
    br := b, jbr := j, draws := s.draws + 2, jdc := s.jdc.map fun t => { t with valid := false },
    jac := s.jac.map fun t => { t with valid := false } }

/-! Huffman codes, as statements say them. -/

/-- The internal node that bits lead to from a node. -/
def treePath (nodes : List Node) : Nat → List Bool → Option Nat
  | n, [] => some n
  | n, b :: bs =>
    match childOf nodes n b with
    | none => none
    | some c =>
      match nodes[c]? with
      | none => none
      | some node => if node.kind = .leaf then none else treePath nodes c bs

/-- The canonical code of symbol `sym`: the first code of its length plus the number of earlier symbols of that
length (R162, R163). -/
def canonicalCode (lens : List Nat) (sym : Nat) : Nat :=
  firstCode lens (lens.getD sym 0) + (lens.take sym).count (lens.getD sym 0)

/-- `C(sym)`: the canonical code as bits, most significant first (R160). -/
def canonicalBits (lens : List Nat) (sym : Nat) : List Bool :=
  (List.range (lens.getD sym 0)).map fun i => (canonicalCode lens sym).testBit (lens.getD sym 0 - 1 - i)

/-- The lengths of the codes of a JPEG table in the order of its symbol list (R302): `counts[0]` codes of length 1,
then `counts[1]` of length 2, and so on. -/
def jpegLengths (counts : List Nat) : List Nat :=
  (List.range counts.length).flatMap fun i => List.replicate (counts.getD i 0) (i + 1)

/-! The bits of JBR. -/

/-- The data bytes at the head of entropy-coded data (R304, R306): the `00` after an `FF` is dropped, and any other
byte after an `FF`, or none, ends the data. -/
def entropyBytes : List Byte → List Byte
  | [] => []
  | [v] => if v = 0xFF#8 then [] else [v]
  | v :: w :: rest =>
    if v = 0xFF#8 then (if w = 0x00#8 then v :: entropyBytes rest else []) else v :: entropyBytes (w :: rest)

/-- The bits that JBR has still to deliver from cursor `j` (R304): what is left of the byte begun, then the data
bytes, most significant bit first. -/
def entropyBits (s : State) (j : Jbr) : List Bool :=
  (List.range j.cnt).map (fun i => j.acc.getLsbD (j.cnt - 1 - i)) ++
    (entropyBytes (inBytes s j.pos (inLength s - j.pos))).flatMap fun v => (List.range 8).map fun i => v.getLsbD (7 - i)

/-- The number that bits spell, the first one most significant (R305). -/
def bitsNumber (bits : List Bool) : Nat := bits.foldl (fun v b => 2 * v + b.toNat) 0

/-! CRC-32. -/

/-- One bit into a CRC of the reflected polynomial (R263). -/
def crcBit (c : Word) (b : Bool) : Word := if c.getLsbD 0 != b then c >>> 1 ^^^ 0xEDB88320#32 else c >>> 1

/-- CRC-32 one bit at a time, bit 0 of each byte first, without the table of R263. -/
def crcBitwise (bytes : List Byte) : Word :=
  ~~~((bytes.flatMap fun v => (List.range 8).map v.getLsbD).foldl crcBit (~~~0#32))

/-! The output of INF. -/

/-- `bytes` were appended to the output and to the window, and nothing else changed (R215). -/
def State.Appended (s : State) (bytes : List Byte) (t : State) : Prop :=
  t = { s with
      out := s.out ++ bytes, win := t.win,
      inf := { s.inf with produced := s.inf.produced + bytes.length, wpos := (s.inf.wpos + bytes.length) % 32768 } } ∧
    (∀ k, k < bytes.length → bytes.length ≤ k + 32768 →
      Memory.read t.win ((s.inf.wpos + k) % 32768) = bytes.getD k 0#8) ∧
    (∀ a, (∀ k, k < bytes.length → a ≠ (s.inf.wpos + k) % 32768) → Memory.read t.win a = Memory.read s.win a)

/-- A run that a code-length symbol asks for (R204, R205): element `i` in state `s` appends `r` times the length `v`,
and reads `n` extra bits. -/
def CodeLengthRun (s : State) (i : Instr) (v r n : Nat) : Prop :=
  (∃ b : BitVec 4, i = .clLen b ∧ v = b.toNat ∧ r = 1 ∧ n = 0) ∨
    (i = .clRep ∧ s.inf.lens.getLast? = some v ∧ r = 3 + bitsLsb s (brPos s) 2 ∧ n = 2) ∨
    (i = .clZero3 ∧ v = 0 ∧ r = 3 + bitsLsb s (brPos s) 3 ∧ n = 3) ∨
    (i = .clZero11 ∧ v = 0 ∧ r = 11 + bitsLsb s (brPos s) 7 ∧ n = 7)

/-! PNG rows. -/

/-- The five filters with their predictors (R276 to R280). -/
def filterRows : List (Instr × (Byte → Byte → Byte → Byte)) :=
  [(.filterNone, fun _ _ _ => 0#8), (.filterSub, fun a _ _ => a), (.filterUp, fun _ b _ => b),
    (.filterAverage, fun a b _ => BitVec.ofNat 8 ((a.toNat + b.toNat) / 2)), (.filterPaeth, paeth)]

/-- The filter direction of R282, a test helper of the spec: the filtered bytes of a row. -/
def filterRow (pred : Byte → Byte → Byte → Byte) (bpp : Nat) (prev raw : List Byte) : List Byte :=
  (List.range raw.length).map fun x =>
    raw.getD x 0#8 - pred (leftByte bpp raw x) (prev.getD x 0#8) (leftByte bpp prev x)

/-- The colour types with the depths the hardware accepts (R266, R267). -/
def colorRows : List (Instr × Nat × List Nat) :=
  [(.ctGray, 0, [1, 2, 4, 8]), (.ctTruecolor, 2, [8]), (.ctIndexed, 3, [1, 2, 4, 8]), (.ctGrayAlpha, 4, [8]),
    (.ctTruecolorAlpha, 6, [8])]

/-! The scan of a JPEG file. -/

/-- Where a scan goes on: the control point, the block locals, the registers of JDEC and the cursor JBR. -/
def State.GoesOn (u : State) (p : Point) (jc : Jc) (d : Jdec) (j : Jbr) : Prop :=
  u.point = p ∧ u.jc = jc ∧ u.jdec = d ∧ u.jbr = j

/-! JPEG segments. -/

/-- A segment with this payload lies at the cursor (R363). -/
def State.SegmentIs (s : State) (payload : List Byte) : Prop :=
  be16 (inByte s s.jdec.pos) (inByte s (s.jdec.pos + 1)) = payload.length + 2 ∧
    s.jdec.pos + payload.length + 2 ≤ inLength s ∧ payload = inBytes s (s.jdec.pos + 2) payload.length

/-- After a segment with this payload, back in the marker loop (R360, R363). -/
def State.pastSegment (s : State) (payload : List Byte) : State :=
  { s with jdec := { s.jdec with pos := s.jdec.pos + payload.length + 2 }, point := .jpegMarker }

/-- One table of a DQT payload (R368): its id, its precision and its 64 entries. -/
def quantTableBytes (t : Nat) (wide : Bool) (entries : List Nat) : List Byte :=
  BitVec.ofNat 8 (16 * wide.toNat + t) ::
    entries.flatMap fun q => if wide then [BitVec.ofNat 8 (q / 256), BitVec.ofNat 8 q] else [BitVec.ofNat 8 q]

/-- A table that may be loaded (R330, R333). -/
def QuantTableOk (t : Nat) (wide : Bool) (entries : List Nat) : Prop :=
  t ≤ 3 ∧ entries.length = 64 ∧ ∀ q ∈ entries, 1 ≤ q ∧ q < (if wide then 65536 else 256)

/-- The state with table `t` loaded (R330). -/
def State.withQuant (s : State) (t : Nat) (wide : Bool) (entries : List Nat) : State :=
  { s with qt := s.qt.set t entries, qtPrec := s.qtPrec.set t wide, qtDef := s.qtDef.set t true }

/-- One table of a DHT payload (R370): its class, its id, the 16 counts and the symbols. -/
def huffTableBytes (ac : Bool) (h : Nat) (counts syms : List Nat) : List Byte :=
  BitVec.ofNat 8 (16 * ac.toNat + h) :: (counts ++ syms).map (BitVec.ofNat 8)

/-- A table that may be built (R301, R303, R370). -/
def HuffTableOk (h : Nat) (counts syms : List Nat) : Prop :=
  h ≤ 3 ∧ counts.length = 16 ∧ syms.length = counts.sum ∧ counts.sum ≤ 256 ∧ jadmitted counts = true ∧
    (∀ c ∈ counts, c < 256) ∧ ∀ v ∈ syms, v < 256

/-- The state with a JPEG tree slot built; the build scratch is free afterwards (R52, R57). -/
def State.withHuff (s : State) (ac : Bool) (h : Nat) (counts syms : List Nat) : State :=
  { s with
    jdc := if ac then s.jdc else s.jdc.set h (jbuildTree counts syms),
    jac := if ac then s.jac.set h (jbuildTree counts syms) else s.jac,
    jhuf := Config.jhuf s.draws, draws := s.draws + 1 }

end Sys2Proof.Machine
end

