-- ==== Sys2Proof/Certificates/Slice0/Obligations.lean ====
section
/-! DEFINITION. The statements for the provers, one `def Obligations.<Name> : Prop` each. Each docstring says which rule
of spec/ it formalises. -/

open Sys2Proof Sys2Proof.Machine

/-- O1. Reset leaves every value the spec gives for reset; the CRC table is that of CRC-32 (that a reset keeps the
input is log 19): 70_reset_and_hazards.md R440, 10_state.md R57, R41, 60_exceptions.md R422, 44_png.md R263. -/
def Obligations.ResetGivesTheStatedValues : Prop :=
  State.reset.AtReset ∧
    (∀ (s : State) (rest : List HostOp), s.point = .idle → s.host = .reset :: rest →
      ∃ t, step s = .next t ∧ t.AtReset ∧ t.input = s.input ∧ t.host = rest) ∧
    (∀ bytes : List Byte, crc32 crcTable bytes = crcBitwise bytes) ∧ crcTable.length = 256 ∧
    crcTable[1]? = some 0x77073096#32 ∧ crcTable[16]? = some 0x1DB71064#32 ∧ crcTable[255]? = some 0x2D02EF8D#32 ∧
    crc32 crcTable [49#8, 50#8, 51#8, 52#8, 53#8, 54#8, 55#8, 56#8, 57#8] = 0xCBF43926#32

/-- O2. The state after reset meets every invariant of the model: 70_reset_and_hazards.md R440, R443, 10_state.md
R24, R57, 42_inflate.md R215. -/
def Obligations.ResetMeetsEveryInvariant : Prop :=
  State.reset.Canonical ∧ State.reset.Constants ∧ State.reset.Legal ∧ State.reset.CursorOk ∧ State.reset.WindowOk ∧
    State.reset.Sized ∧ State.reset.HeaderOk ∧ State.reset.IdatOnlyInPng

/-- O3. Every step keeps every memory in canonical form: 20_memory.md R70, 10_state.md R31, R53, R57. -/
def Obligations.StepKeepsMemoryCanonical : Prop :=
  ∀ s t : State, s.Canonical → step s = .next t → t.Canonical

/-- O4. No step changes the CRC table or the two fixed trees: 10_state.md R28, R41, 41_huffman.md R165,
60_exceptions.md R405. -/
def Obligations.StepKeepsReadOnlyTables : Prop :=
  ∀ s t : State, s.Constants → step s = .next t → t.Constants

/-- O5. STATUS and ERRKIND stay legal, and BUSY means that a call runs: 10_state.md R22, 60_exceptions.md R400,
R403. -/
def Obligations.StepKeepsStatusLegal : Prop :=
  ∀ s t : State, s.Legal → step s = .next t → t.Legal

/-- O6. The BR cursor stays inside its buffer, JBR holds at most 8 bits, and BR reads IDAT only while a PNG is
decoded: 40_bitreader.md R149, 10_state.md R24, R54, 20_memory.md R71, 44_png.md R273, 70_reset_and_hazards.md R443. -/
def Obligations.StepKeepsCursorsInRange : Prop :=
  ∀ s t : State, step s = .next t → (s.CursorOk → t.CursorOk) ∧ (s.IdatOnlyInPng → t.IdatOnlyInPng)

/-- O7. While INF decodes, the window holds the last 32768 bytes of the output: 42_inflate.md R215, 20_memory.md
R78. -/
def Obligations.StepKeepsWindowInStep : Prop :=
  ∀ s t : State, s.Canonical → s.WindowOk → step s = .next t → t.WindowOk

/-- O8. Register files keep their sizes and their entries their widths: 10_state.md R51, R53,
46_jpeg_dequant_idct.md R330, R331, 30_encoding.md R102. -/
def Obligations.StepKeepsRegisterFilesSized : Prop :=
  ∀ s t : State, s.Sized → step s = .next t → t.Sized

/-- O9. A PNG is decoded only with an accepted header: 44_png.md R265, R266, R267, R268. -/
def Obligations.StepKeepsPngHeaderChecked : Prop :=
  ∀ s t : State, s.HeaderOk → step s = .next t → t.HeaderOk

/-- O10. A step inside a call goes on with the result registers untouched, or ends the call OK or FAILED:
60_exceptions.md R403, R407, R411, 70_reset_and_hazards.md R443, 30_encoding.md R103. -/
def Obligations.CallEndsOnlyByItsRule : Prop :=
  ∀ s t : State, s.Legal → s.point ≠ .idle → step s = .next t →
    (t.point ≠ .idle ∧ t.status = s.status ∧ t.errkind = s.errkind ∧ t.diag = s.diag ∧ t.resValue = s.resValue ∧
        t.resWidth = s.resWidth ∧ t.resHeight = s.resHeight ∧ t.resChannels = s.resChannels ∧ t.resLen = s.resLen) ∨
      (t.point = .idle ∧ t.running = none ∧
        ((t.status = statusOk ∧ t.errkind = 0#8) ∨
          (t.status = statusFailed ∧ 1 ≤ t.errkind.toNat ∧ t.errkind.toNat ≤ 6 ∧
            ((s.running.getD .plain).usesCursor = true → t.brLive = false ∧ t.jbrLive = false))))

/-- O11. No instruction changes input, operand registers or the host's queue; only HUF_BUILD writes T_USER,
JPEG_DECODE clears its valid bit (log 12): 20_memory.md R71, R86, 60_exceptions.md R416, R405, 41_huffman.md R161,
10_state.md R57. -/
def Obligations.NoInstructionTouchesTheHostsThings : Prop :=
  ∀ (i : Instr) (s t : State), exec i s = .next t →
    s.KeepsHost t ∧ (i ≠ .hufBuild → i ≠ .jpegDecode → t.tUser = s.tUser) ∧
      (i = .jpegDecode → t.tUser = { s.tUser with valid := false })

/-- O12. What a command does never depends on the previous call's status, kind, diagnostic or results:
60_exceptions.md R404, 70_reset_and_hazards.md R442. -/
def Obligations.CommandsDoNotReadTheLastOutcome : Prop :=
  ∀ (i : Instr) (s : State) (st k : Byte) (d o : List Byte) (v w h l : Word) (c : Byte),
    formatOf i = .cmd → s.Ready → st ≠ statusBusy →
      exec i { s with
        status := st, errkind := k, diag := d, resValue := v, resWidth := w, resHeight := h, resChannels := c,
        resLen := l, out := o } = exec i s

/-- O13. A JPEG decode stays in JDEC until it ends, and never ends invalid-backreference: 60_exceptions.md R408,
48_jpeg_decoder.md R391. -/
def Obligations.JpegNeverEndsInvalidBackreference : Prop :=
  ∀ (s t : State) (b : Option Nat), s.running = some (.jpeg b) → s.errkind = 0#8 → s.point.inJpeg = true →
    step s = .next t →
      (t.errkind = 0#8 ∧ t.point.inJpeg = true ∧ ∃ b', t.running = some (.jpeg b')) ∨
        (t.point = .idle ∧ t.errkind ≠ FailKind.invalidBackreference.code)

/-- O14. Each element INF takes from the stream moves the cursor forward (the second step of a fixed code, log 14,
keeps it): 42_inflate.md R223, 40_bitreader.md R149. -/
def Obligations.InflateAlwaysAdvances : Prop :=
  ∀ s t : State, s.point.inflating = true → step s = .next t → t.point.inflating = true →
    t.br.space = s.br.space ∧ t.br.base = s.br.base ∧ t.br.len = s.br.len ∧ brPos s ≤ brPos t ∧
      (s.point ≠ .litlenSym → s.point ≠ .distSym → brPos s < brPos t)

/-- O15. Decoding the encoding of a well-formed instruction gives it back, every operand at every value:
30_encoding.md R100 to R120, spec/opcode_table.json. -/
def Obligations.DecodeOfEncodeIsTheInstruction : Prop :=
  ∀ i : Instr, i.wellFormed = true → decode (formatOf i) (encode i) = .ok i

/-- O16. What decodes is well formed, of the format asked for, and encodes back to the number it was read from:
30_encoding.md R100 to R120, spec/opcode_table.json. -/
def Obligations.DecodedInstructionsAreWellFormed : Prop :=
  ∀ (f : Format) (w : Nat) (i : Instr), decode f w = .ok i → i.wellFormed = true ∧ formatOf i = f ∧ encode i = w

/-- O17. Words written out from the encoding tables decode to the rows they stand for: 30_encoding.md R101, R104,
R108, R109, R110, R113, R114, R116. -/
def Obligations.EncodingTableSamples : Prop :=
  decode .cmd 0x52 = .ok .jcBlock ∧ decode .blockHdr 0b101 = .ok (.blockDynamic true) ∧
    decode .stored 0xFFFA0005 = .ok (.storedLenNlen 5#16 0xFFFA#16) ∧ decode .litlen 285 = .ok .len285 ∧
    decode .dist 29 = .ok .dist29 ∧ decode .fixedLL 0b110010000 = .ok (.fixll144to255 144#9) ∧
    decode .pngChunk 0x49454E44 = .ok .chunkIend ∧ decode .pngFilter 4 = .ok .filterPaeth ∧
    decode .jpegMarker 0xFFD7 = .ok (.mRst 7#3) ∧ decode .jpegMarker 0xFFC8 = .ok (.mOther 0xC8#8) ∧
    decode .jpegAc 0xF0 = .ok .acZrl ∧
    (∀ w, 256 ≤ w → decode .cmd w = .error .illegalCommand) ∧ (∀ w, 288 ≤ w → decode .litlen w = .error .noSuchSymbol) ∧
    decode .cmd 0 = .error .illegalCommand ∧ decode .fixedLL 0x18 = .error .noFixedCode ∧
    decode .jpegMarker 0xFF00 = .error .notMarker ∧ decode .jpegMarker 0xFFFF = .error .notMarker

/-- O18. A step is exec of the instruction decoded: the element at the cursor inside a call (log 1), the command
written to CMD at rest (logs 2, 11): 10_state.md R21, R22, 20_memory.md R85, 30_encoding.md R100, R101,
60_exceptions.md R411. -/
def Obligations.StepRunsTheDecodedInstruction : Prop :=
  (∀ s : State, s.point ≠ .idle →
      (∀ (f : Format) (w : Nat) (t : State) (i : Instr), fetch s = .element f w t → decode f w = .ok i → step s = exec i t) ∧
        (∀ (k : FailKind) (t : State), fetch s = .fail k t → step s = raise k t) ∧
        (∀ r : Refusal, fetch s = .refuse r → step s = .refused r)) ∧
    (∀ (s : State) (v : Word) (rest : List HostOp), s.point = .idle → s.host = .writeReg 0 v :: rest →
      (∀ i : Instr, decode .cmd (v.toNat % 256) = .ok i → step s = exec i { s with host := rest, cmd := v.setWidth 8 }) ∧
        (∀ e : Reject, decode .cmd (v.toNat % 256) = .error e → step s = .refused .illegalCommand)) ∧
    ∀ (i : Instr) (s : State), formatOf i = .cmd → ¬ s.Ready → exec i s = .refused .commandWhileBusy

/-- O19. What each control point fetches and how it fails (fixed codes: FixedCodesAreTakenWhole; JPEG symbols:
JpegBitsAreDeliveredInOrder): 42_inflate.md R191, R195, R200, R203, R210, R217, 41_huffman.md R170, R171, 43_zlib.md
R240, R241, 44_png.md R261, R262, R264, R265, R266, R274, R275, 48_jpeg_decoder.md R361, R362, R384, 30_encoding.md
R104, R105, R106, R112, R113, R114, 93_implementation_defined.md U4. -/
def Obligations.FetchReadsAtTheCursor : Prop :=
  ∀ s : State,
    (∀ (p : Point) (f : Format) (n : Nat), (p, f, n) ∈ [(Point.blockHdr, Format.blockHdr, 3), (.stored, .stored, 32), (.dynHdr, .dynHdr, 14)] →
      s.point = p →
        (n ≤ brUnread s → fetch s = .element f (bitsLsb s (brPos s) n) (brSeek (brPos s + n) s)) ∧
          (brUnread s < n → fetch s = .fail .truncatedStream s)) ∧
      (∀ (p : Point) (f : Format) (tr : Tree),
        (p, f, tr) ∈ [(Point.clen, Format.clen, s.tCl), (.litlenCode, .litlen, s.tLl), (.distCode, .dist, s.tD)] →
        s.point = p → (p = .clen ∨ s.inf.btype ≠ 1#2) →
        (tr.valid = true →
          (∀ n v, n ≤ brUnread s → treeCode tr.nodes 0 (nextBits s n) = some v → fetch s = .element f v (brSeek (brPos s + n) s)) ∧
          (∀ n m, treePath tr.nodes 0 (nextBits s n) = some m →
            (n < brUnread s → childOf tr.nodes m (brBit s (brPos s + n)) = none →
              fetch s = .fail .invalidCode (brSeek (brPos s + n + 1) s)) ∧
            (n = brUnread s → fetch s = .fail .truncatedStream s))) ∧
        (tr.valid = false → fetch s = .refuse .treeNotValid)) ∧
      (s.point = .litlenSym → fetch s = .element .litlen s.inf.sym s) ∧
      (s.point = .distSym → fetch s = .element .dist s.inf.sym s) ∧
      (s.point = .zlibHdr →
        let at_ (i : Nat) : Nat := (if s.running = some .png then s.idat.getD i 0#8 else inByte s i).toNat
        fetch s = .element .zlib (at_ 0 * 256 + at_ 1) s) ∧
      (s.point = .pngSignature →
        (inLength s < 8 → fetch s = .fail .truncatedStream s) ∧
        (8 ≤ inLength s →
          (inBytes s 0 8 = [0x89#8, 0x50#8, 0x4E#8, 0x47#8, 0x0D#8, 0x0A#8, 0x1A#8, 0x0A#8] → fetch s = .element .pngFile 0x89504E470D0A1A0A s) ∧
          (inBytes s 0 8 ≠ [0x89#8, 0x50#8, 0x4E#8, 0x47#8, 0x0D#8, 0x0A#8, 0x1A#8, 0x0A#8] → fetch s = .fail .malformedContainer s))) ∧
      (s.point = .pngChunk →
        (inLength s < s.png.pos + 12 + beNat (inBytes s s.png.pos 4) → ∃ t, fetch s = .fail .truncatedStream t) ∧
          (s.png.pos + 12 + beNat (inBytes s s.png.pos 4) ≤ inLength s →
            let n := beNat (inBytes s s.png.pos 4)
            let t := { s with png := { s.png with
              chunkLength := n, chunkType := BitVec.ofNat 32 (beNat (inBytes s (s.png.pos + 4) 4)),
              chunkCrc := BitVec.ofNat 32 (beNat (inBytes s (s.png.pos + 8 + n) 4)) } }
            fetch s = if crc32 s.crcT (inBytes s (s.png.pos + 4) (4 + n)) = t.png.chunkCrc
              then .element .pngChunk t.png.chunkType.toNat t else .fail .malformedContainer t)) ∧
      (s.point = .pngIhdr → fetch s = .element .pngIhdr (beNat (inBytes s (s.png.pos + 8) 13)) s) ∧
      (s.point = .pngCheck ∨ s.point = .pngConvert → fetch s = .element .pngColor s.png.colorType.toNat s) ∧
      (s.point = .pngRow → fetch s = .element .pngFilter (s.raw.getD (s.png.row * (1 + pngRowBytes s.png)) 0#8).toNat s) ∧
      (s.point = .jpegSoi →
        (inLength s < 2 → fetch s = .fail .truncatedStream s) ∧
        (2 ≤ inLength s → fetch s =
          if inByte s 0 = 0xFF#8 ∧ inByte s 1 = 0xD8#8 then .element .jpegMarker 0xFFD8 s else .fail .malformedContainer s)) ∧
      (s.point = .jpegMarker →
        (inLength s < s.jdec.pos + 2 → fetch s = .fail .truncatedStream s) ∧
        (s.jdec.pos + 2 ≤ inLength s → fetch s =
          if inByte s s.jdec.pos = 0xFF#8 ∧ inByte s (s.jdec.pos + 1) ≠ 0x00#8 ∧ inByte s (s.jdec.pos + 1) ≠ 0xFF#8 then
            .element .jpegMarker (0xFF00 + (inByte s (s.jdec.pos + 1)).toNat) { s with jdec := { s.jdec with pos := s.jdec.pos + 2 } }
          else .fail .malformedContainer s)) ∧
      (s.point = .jpegRestart →
        let t : State := { s with jbr := { s.jbr with cnt := 0 } }
        (inLength s < s.jbr.pos + 2 → fetch s = .fail .truncatedStream t) ∧
        (s.jbr.pos + 2 ≤ inLength s → fetch s =
          if inByte s s.jbr.pos = 0xFF#8 ∧ (inByte s (s.jbr.pos + 1)).toNat = 0xD0 + s.jdec.rstNext then
            .element .jpegMarker (0xFFD0 + s.jdec.rstNext) t
          else .fail .malformedContainer t))

/-- O20. The host's register, input and buffer operations do what R22 and R102 say and nothing else, the rest is
refused (choices: logs 2, 9, 17, 18, 24): 10_state.md R22, R32, R51, R53, 60_exceptions.md R416, R422,
30_encoding.md R102, 20_memory.md R89, 93_implementation_defined.md U6, U9, U12. -/
def Obligations.HostReadsAndWritesRegisters : Prop :=
  ∀ s : State, s.point = .idle →
    (s.host = [] → step s = .next s) ∧
      ∀ (op : HostOp) (rest : List HostOp), s.host = op :: rest →
        let answers (vs : List Int) : Prop := step s = .next { s with host := rest, hostRead := s.hostRead ++ vs }
        (∀ v : Word,
          (op = .writeReg 4 v → step s = .next { s with host := rest, arg0 := v }) ∧
          (op = .writeReg 5 v → step s = .next { s with host := rest, arg1 := v }) ∧
          (op = .writeReg 6 v → step s = .next { s with host := rest, inBase := v }) ∧
          (op = .writeReg 7 v → step s = .next { s with host := rest, inLen := v }) ∧
          (∀ no, op = .writeReg no v → (1 ≤ no ∧ no ≤ 3) ∨ (8 ≤ no ∧ no ≤ 12) → step s = .refused .readOnlyRegister) ∧
          (∀ no, op = .writeReg no v → 13 ≤ no → step s = .refused .noSuchRegister)) ∧
        (∀ (no : Nat) (x : Int),
          (no, x) ∈ [(1, (s.status.toNat : Int)), (2, (s.errkind.toNat : Int)), (8, (s.resValue.toNat : Int)),
            (9, (s.resWidth.toNat : Int)), (10, (s.resHeight.toNat : Int)), (11, (s.resChannels.toNat : Int)),
            (12, (s.resLen.toNat : Int))] →
          op = .readReg no → answers [x]) ∧
        (op = .readReg 3 → answers (s.diag.map fun b => (b.toNat : Int))) ∧
        (∀ no ∈ [0, 4, 5, 6, 7], op = .readReg no → step s = .refused .writeOnlyRegister) ∧
        (∀ no, op = .readReg no → 13 ≤ no → step s = .refused .noSuchRegister) ∧
        (∀ (a : Word) (v : Byte), op = .writeInput a v →
          step s = .next { s with host := rest, input := Memory.write s.input a.toNat v }) ∧
        (∀ (k : Nat) (v : Int),
          (k < 64 → op = .writeBuf .coef k v → step s = .next { s with host := rest, coef := s.coef.set k v }) ∧
          (k < 64 → -32768 ≤ v → v ≤ 32767 → op = .writeBuf .dq k v → step s = .next { s with host := rest, dq := s.dq.set k v }) ∧
          (k < 3 → op = .writeBuf .pred k v → step s = .next { s with host := rest, pred := s.pred.set k v }) ∧
          (∀ t, t < 4 → k < 64 → 0 ≤ v → v ≤ 65535 → op = .writeBuf .qt (64 * t + k) v →
            step s = .next { s with host := rest, qt := s.qt.set t ((s.qt.getD t []).set k v.toNat) }) ∧
          (k < 4 → v = 0 ∨ v = 1 → op = .writeBuf .qtDef k v → step s = .next { s with host := rest, qtDef := s.qtDef.set k (v == 1) }) ∧
          (k < 4 → v = 0 ∨ v = 1 → op = .writeBuf .qtPrec k v → step s = .next { s with host := rest, qtPrec := s.qtPrec.set k (v == 1) })) ∧
        (∀ (buf : HostBuf) (size : Nat) (fits : Int → Prop),
          (buf, size, fits) ∈ [(HostBuf.coef, 64, fun _ => True), (.dq, 64, fun v => -32768 ≤ v ∧ v ≤ 32767), (.pred, 3, fun _ => True),
            (.qt, 256, fun v => 0 ≤ v ∧ v ≤ 65535), (.qtDef, 4, fun v => v = 0 ∨ v = 1), (.qtPrec, 4, fun v => v = 0 ∨ v = 1),
            (.samp, 0, fun _ => True)] →
          ∀ (k : Nat) (v : Int), op = .writeBuf buf k v → size ≤ k ∨ ¬ fits v → step s = .refused .hostAccess) ∧
        (∀ (buf : HostBuf) (content : List Int),
          (buf, content) ∈ [(HostBuf.coef, s.coef), (.dq, s.dq), (.samp, s.samp.map fun b => (b.toNat : Int)), (.pred, s.pred),
            (.qtDef, s.qtDef.map fun b => if b then 1 else 0), (.qtPrec, [])] →
          ∀ k, op = .readBuf buf k →
            (∀ v, content[k]? = some v → answers [v]) ∧ (content.length ≤ k → step s = .refused .hostAccess)) ∧
        (∀ t k, k < 64 → op = .readBuf .qt (64 * t + k) →
          (∀ q, (s.qt.getD t [])[k]? = some q → answers [(q : Int)]) ∧
            ((s.qt.getD t []).length ≤ k → step s = .refused .hostAccess)) ∧
        (∀ k, op = .readOut k →
          (∀ b, s.out[k]? = some b → answers [(b.toNat : Int)]) ∧ (s.out.length ≤ k → step s = .refused .hostAccess))

/-- O21. BR_READBITS, BR_READBIT and BR_READBITS_REV return the next bits in their order and move the cursor past
them (a later IN_LEN: log 31): 40_bitreader.md R142, R143, R144, R147, R148, 60_exceptions.md R402, R407. -/
def Obligations.BitReadsReturnTheNextBits : Prop :=
  ∀ s : State, s.Ready → s.brLive = true →
    (∀ n, s.arg0.toNat = n → 1 ≤ n → n ≤ 32 →
      (n ≤ brUnread s →
        (∃ v : Word, exec .brReadbits s = .next { brSeek (brPos s + n) s.afterOk with resValue := v } ∧
          ∀ i, i < 32 → v.getLsbD i = (decide (i < n) && brBit s (brPos s + i))) ∧
        (∃ v : Word, exec .brReadbitsRev s = .next { brSeek (brPos s + n) s.afterOk with resValue := v } ∧
          ∀ i, i < 32 → v.getLsbD i = (decide (i < n) && brBit s (brPos s + (n - 1 - i))))) ∧
      (brUnread s < n →
        FailsClosed (exec .brReadbits s) s .truncatedStream ∧ FailsClosed (exec .brReadbitsRev s) s .truncatedStream)) ∧
    (1 ≤ brUnread s →
      exec .brReadbit s = .next { brSeek (brPos s + 1) s.afterOk with resValue := BitVec.ofNat 32 (brBit s (brPos s)).toNat }) ∧
    (brUnread s = 0 → FailsClosed (exec .brReadbit s) s .truncatedStream) ∧
    (s.arg0.toNat = 0 ∨ 32 < s.arg0.toNat →
      exec .brReadbits s = .refused .bitCountOutOfRange ∧ exec .brReadbitsRev s = .refused .bitCountOutOfRange)

/-- O22. BR_ALIGN moves the cursor to the next byte boundary; BR_READBYTES delivers ARG0 bytes from there, or fails
truncated-stream (log 31): 40_bitreader.md R145, R146, R147, 10_state.md R22. -/
def Obligations.AlignAndReadBytesStartAtTheNextByte : Prop :=
  ∀ s : State, s.Ready → s.brLive = true →
    let q := (brPos s + 7) / 8
    let n := s.arg0.toNat
    exec .brAlign s = .next { s.afterOk with br := { s.br with bytePos := q, bitPos := 0#3 } } ∧
    (n ≤ s.br.len - q →
      exec .brReadbytes s = .next { s.afterOk with
        br := { s.br with bytePos := q + n, bitPos := 0#3 }, out := (List.range n).map fun k => brByte s (q + k),
        resLen := BitVec.ofNat 32 n }) ∧
    (s.br.len - q < n → FailsClosed (exec .brReadbytes s) s .truncatedStream)

/-- O23. BR_RESET binds BR to the input at 0 and opens it; a cursor left unspecified by a failure is refused to
every command that continues from it: 40_bitreader.md R140, R147, 30_encoding.md R103, 60_exceptions.md R407,
93_implementation_defined.md U5. -/
def Obligations.ClosedCursorsAreRefused : Prop :=
  ∀ s : State, s.Ready →
    exec .brReset s = .next { s.afterOk with
      br := { space := .input, base := 0, len := s.inLen.toNat, bytePos := 0, bitPos := 0#3 }, brLive := true } ∧
    (s.brLive = false → ∀ i ∈ [Instr.brReadbits, .brReadbit, .brReadbitsRev, .brAlign, .brReadbytes, .hufDecode],
      exec i s = .refused .cursorAfterFailure) ∧
    (s.jbrLive = false → exec .jcBlock s = .refused .cursorAfterFailure)

/-- O24. HUF_BUILD writes the built tree to T_USER; HUF_BUILD_FIXED writes the two fixed trees again; what is not
admitted is refused: 41_huffman.md R161, R164, R165, R166, R167, 93_implementation_defined.md U1, U8. -/
def Obligations.HufBuildsStoreTheirTrees : Prop :=
  ∀ s : State, s.Ready →
    (1 ≤ s.arg0.toNat → s.arg0.toNat ≤ 288 → s.arg0.toNat ≤ inLength s →
      let lens := (List.range s.arg0.toNat).map fun k => (inByte s k).toNat
      (admitted lens 15 = true → exec .hufBuild s = .next { s.afterOk with
        tUser := { nodes := buildNodes lens 15, valid := true }, huf := Config.huf s.draws, draws := s.draws + 1 }) ∧
        (admitted lens 15 = false → exec .hufBuild s = .refused .lengthsNotAdmitted)) ∧
    (s.arg0.toNat = 0 ∨ 288 < s.arg0.toNat ∨ inLength s < s.arg0.toNat → exec .hufBuild s = .refused .operandOutOfRange) ∧
    (s.Constants → exec .hufBuildFixed s = .next { s.afterOk with huf := Config.huf s.draws, draws := s.draws + 1 })

/-- O25. The tree of an admitted array maps the canonical code of every used symbol to it, and nothing else; so does
the tree of a JPEG table: 41_huffman.md R160, R162, R163, R164, R173, 45_jpeg_entropy.md R300, R302, R303. -/
def Obligations.CanonicalCodesDecodeToTheirSymbols : Prop :=
  (∀ (lens : List Nat) (m sym : Nat), admitted lens m = true → sym < lens.length → lens.getD sym 0 ≠ 0 →
      treeCode (buildTree lens m).nodes 0 (canonicalBits lens sym) = some sym) ∧
    (∀ (lens : List Nat) (m : Nat) (bits : List Bool) (v : Nat), admitted lens m = true →
      treeCode (buildTree lens m).nodes 0 bits = some v →
      v < lens.length ∧ lens.getD v 0 ≠ 0 ∧ bits = canonicalBits lens v) ∧
    ∀ counts syms : List Nat, counts.length = 16 → syms.length = counts.sum → jadmitted counts = true →
      ∀ (bits : List Bool) (v : Nat),
        treeCode (jbuildTree counts syms).nodes 0 bits = some v ↔
          ∃ k, syms[k]? = some v ∧ bits = canonicalBits (jpegLengths counts) k

/-- O26. HUF_DECODE returns the symbol the next bits spell and consumes exactly those bits, or fails or is refused
as R170 says (log 31): 41_huffman.md R170, R171, R172, 10_state.md R27, R28, 93_implementation_defined.md U4. -/
def Obligations.HufDecodeReturnsTheSymbol : Prop :=
  (∀ (s : State) (tr : Tree), s.Ready → s.brLive = true → userSlot s s.arg0.toNat = some tr →
    (tr.valid = true →
      (∀ n v, n ≤ brUnread s → treeCode tr.nodes 0 (nextBits s n) = some v →
        exec .hufDecode s = .next { brSeek (brPos s + n) s.afterOk with resValue := BitVec.ofNat 32 v }) ∧
      (∀ n m, treePath tr.nodes 0 (nextBits s n) = some m →
        (n < brUnread s → childOf tr.nodes m (brBit s (brPos s + n)) = none → FailsClosed (exec .hufDecode s) s .invalidCode) ∧
          (n = brUnread s → FailsClosed (exec .hufDecode s) s .truncatedStream))) ∧
    (tr.valid = false → exec .hufDecode s = .refused .treeNotValid)) ∧
    ∀ s : State, s.Ready → s.brLive = true → s.arg0.toNat ≠ 0 → s.arg0.toNat ≠ 1 → s.arg0.toNat ≠ 5 →
      exec .hufDecode s = .refused .treeNotValid

/-- O27. Each whole-stream command starts its call with the state R442 initialises (logs 12, 29); ZLB_DECOMPRESS
fails at once below 6 bytes: 70_reset_and_hazards.md R442, 10_state.md R57, 42_inflate.md R190, 43_zlib.md R240,
44_png.md R260, 48_jpeg_decoder.md R360. -/
def Obligations.StreamCommandsStartTheirCall : Prop :=
  ∀ s : State, s.Ready →
    exec .infDecompress s = .next (s.started .inflate .blockHdr) ∧
    (6 ≤ inLength s → exec .zlbDecompress s = .next (s.started .zlib .zlibHdr)) ∧
    (inLength s < 6 → FailsClosed (exec .zlbDecompress s) s .truncatedStream) ∧
    exec .pngDecode s = .next { s.started .png .pngSignature with png := .init, idat := [], raw := [] } ∧
    exec .jpegDecode s = .next { s.started (.jpeg none) .jpegSoi with
      tUser := { s.tUser with valid := false },
      jdec := .init, qtDef := List.replicate 4 false, qtPrec := List.replicate 4 false,
      jdc := s.jdc.map fun t => { t with valid := false }, jac := s.jac.map fun t => { t with valid := false },
      pred := [0, 0, 0] }

/-- O28. A block header latches its final flag and type and selects what is fetched next; a stored block aligns
first: 42_inflate.md R191, R194, R198, R199. -/
def Obligations.BlockHeadersSelectTheBody : Prop :=
  ∀ (b : Bool) (s : State),
    exec (.blockStored b) s = .next { s with
      inf := { s.inf with bfinal := b, btype := 0#2 }, br := { s.br with bytePos := (brPos s + 7) / 8, bitPos := 0#3 },
      point := .stored } ∧
    exec (.blockFixed b) s = .next { s with inf := { s.inf with bfinal := b, btype := 1#2 }, point := .litlenCode } ∧
    exec (.blockDynamic b) s = .next { s with inf := { s.inf with bfinal := b, btype := 2#2 }, point := .dynHdr }

/-- O29. A stored block with a right complement appends its bytes to the output and the window, then ends as a block
ends: 42_inflate.md R195, R196, R197, R192, 40_bitreader.md R146. -/
def Obligations.StoredBlockCopiesItsBytes : Prop :=
  ∀ (len nlen : Half) (s : State), Memory.wf s.win = true → s.inf.wpos < 32768 →
    let q := (brPos s + 7) / 8
    (nlen = ~~~len → len.toNat ≤ s.br.len - q →
      ∃ t, State.Appended { s with
          inf := { s.inf with storedLen := len, storedNlen := nlen }, br := { s.br with bytePos := q + len.toNat, bitPos := 0#3 } }
          ((List.range len.toNat).map fun k => brByte s (q + k)) t ∧
        exec (.storedLenNlen len nlen) s = exec .eob t ∧
        (s.inf.bfinal = false → exec (.storedLenNlen len nlen) s = .next { t with point := .blockHdr })) ∧
    (nlen = ~~~len → s.br.len - q < len.toNat → Fails (exec (.storedLenNlen len nlen) s) s .truncatedStream) ∧
    (nlen ≠ ~~~len → Fails (exec (.storedLenNlen len nlen) s) s .malformedContainer)

/-- O30. DYN_COUNTS latches the counts, reads HCLEN code lengths in the fixed order and builds T_CL: 42_inflate.md
R200, R201, R202, R203, 30_encoding.md R106. -/
def Obligations.DynamicHeaderBuildsTheLengthCode : Prop :=
  ∀ (hlit hdist : BitVec 5) (hclen : BitVec 4) (s : State) (cl : List Nat),
    let n := hclen.toNat + 4
    (3 * n ≤ brUnread s → cl.length = 19 →
      (∀ i, i < 19 → cl.getD (clenOrder.getD i 0) 0 = if i < n then bitsLsb s (brPos s + 3 * i) 3 else 0) →
      (admitted cl 7 = true → exec (.dynCounts hlit hdist hclen) s = .next { brSeek (brPos s + 3 * n) s with
        inf := { s.inf with hlit := hlit.toNat + 257, hdist := hdist.toNat + 1, hclen := n, clLen := cl, lens := [] },
        tCl := buildTree cl 7, huf := Config.huf s.draws, draws := s.draws + 1, point := .clen }) ∧
      (admitted cl 7 = false → exec (.dynCounts hlit hdist hclen) s = .refused .lengthsNotAdmitted)) ∧
    (brUnread s < 3 * n → Fails (exec (.dynCounts hlit hdist hclen) s) s .truncatedStream)

/-- O31. CL_LEN, CL_REP, CL_ZERO3 and CL_ZERO11 append their run of lengths; the full sequence becomes T_LL and T_D:
42_inflate.md R203, R204, R205, R207, R208. -/
def Obligations.CodeLengthSymbolsExtendTheSequence : Prop :=
  ∀ (s : State) (i : Instr) (v r n : Nat), CodeLengthRun s i v r n → n ≤ brUnread s →
    s.inf.lens.length + r ≤ s.inf.hlit + s.inf.hdist →
    let lens := s.inf.lens ++ List.replicate r v
    let u := { brSeek (brPos s + n) s with inf := { s.inf with lens := lens } }
    let ll := lens.take s.inf.hlit
    let d := lens.drop s.inf.hlit
    (lens.length < s.inf.hlit + s.inf.hdist → exec i s = .next { u with point := .clen }) ∧
      (lens.length = s.inf.hlit + s.inf.hdist → admitted ll 15 = true → admitted d 15 = true →
        exec i s = .next { u with
          tLl := buildTree ll 15, tD := buildTree d 15, huf := Config.huf s.draws, draws := s.draws + 1,
          point := .litlenCode }) ∧
      (lens.length = s.inf.hlit + s.inf.hdist → (admitted ll 15 = false ∨ admitted d 15 = false) →
        exec i s = .refused .lengthsNotAdmitted)

/-- O32. LIT appends its byte to the output and to the window: 42_inflate.md R211, R215. -/
def Obligations.LiteralIsEmitted : Prop :=
  ∀ (v : Byte) (s : State), Memory.wf s.win = true → s.inf.wpos < 32768 →
    ∃ t, exec (.lit v) s = .next { t with point := .litlenCode } ∧ s.Appended [v] t

/-- O33. LEN_257 to LEN_285 latch base plus extra bits as the match length, 3 to 258; the distance code follows:
42_inflate.md R213, R216, 30_encoding.md R108. -/
def Obligations.LengthCodesLatchTheMatchLength : Prop :=
  ∀ (k : Nat) (i : Instr), lengthInstrs[k]? = some i → ∀ s : State,
    let n := lengthExtra.getD k 0
    let length := lengthBase.getD k 0 + bitsLsb s (brPos s) n
    (n ≤ brUnread s →
      exec i s = .next { brSeek (brPos s + n) s with inf := { s.inf with matchLen := length }, point := .distCode }) ∧
      (brUnread s < n → Fails (exec i s) s .truncatedStream) ∧ 3 ≤ length ∧ length ≤ 258

/-- O34. DIST_0 to DIST_29 copy the match one byte at a time from distance bytes back, so an overlapping copy
repeats what it wrote: 42_inflate.md R217, R218, R219, 30_encoding.md R109. -/
def Obligations.DistanceCodesCopyTheMatch : Prop :=
  ∀ (d : Nat) (i : Instr), distInstrs[d]? = some i → ∀ s : State,
    let n := distExtra.getD d 0
    let distance := distBase.getD d 0 + bitsLsb s (brPos s) n
    1 ≤ distance ∧ distance ≤ 32768 ∧
    (s.Canonical → s.WindowOk → s.point.inflating = true → n ≤ brUnread s → distance ≤ s.inf.produced →
      ∃ (bytes : List Byte) (t : State), exec i s = .next { t with point := .litlenCode } ∧
        bytes.length = s.inf.matchLen ∧
        (∀ k, k < s.inf.matchLen → bytes.getD k 0#8 = (s.out ++ bytes).getD (s.out.length - distance + k) 0#8) ∧
        State.Appended (brSeek (brPos s + n) s) bytes t) ∧
    (n ≤ brUnread s → s.inf.produced < distance → Fails (exec i s) s .invalidBackreference) ∧
    (brUnread s < n → Fails (exec i s) s .truncatedStream)

/-- O35. EOB: after a block that is not final a header follows; after the final one the call of INF, ZLB or PNG goes
on as its rule says (log 30): 42_inflate.md R190, R192, R212, R220, R221, 43_zlib.md R240, R247, 44_png.md R273,
R274, R275, 10_state.md R24, R28, 20_memory.md R71, 70_reset_and_hazards.md R443. -/
def Obligations.EndOfBlockGoesOnOrEndsTheCall : Prop :=
  ∀ s : State,
    let sums := adlerSums s.out 1 0
    let right := sums.2 * 65536 + sums.1 = s.zlb.expected.toNat
    let z := { s with zlb := { s.zlb with a := sums.1, b := sums.2 } }
    (s.inf.bfinal = false → exec .eob s = .next { s with point := .blockHdr }) ∧
    (s.inf.bfinal = true → s.running = some .inflate → exec .eob s = .next { s.endedInflate with resLen := resLenOf s.inf.produced }) ∧
    (s.inf.bfinal = true → s.running = some .zlib →
      (right → ∃ b : Br, b.Inside (inLength s) ∧ exec .eob s = .next { z.endedZlib b with resLen := resLenOf s.out.length }) ∧
        (¬ right → Fails (exec .eob s) s .malformedContainer)) ∧
    (s.inf.bfinal = true → s.running = some .png →
      (right → pngNeed s.png ≤ s.out.length → exec .eob s = .next { z with
        raw := s.out, out := [], point := .pngRow,
        png := { s.png with prev := List.replicate (pngRowBytes s.png) 0#8, cur := [], image := [], row := 0 } }) ∧
        (right → s.out.length < pngNeed s.png → Fails (exec .eob s) s .truncatedStream) ∧
        (¬ right → Fails (exec .eob s) s .malformedContainer))

/-- O36. A repeat with no previous length, and a run past the end of the length sequence, fail invalid-table:
42_inflate.md R205, R206. -/
def Obligations.BadRunsFailInvalidTable : Prop :=
  ∀ s : State,
    (s.inf.lens = [] → Fails (exec .clRep s) s .invalidTable) ∧
    (∀ (i : Instr) (v r n : Nat), i ∈ [Instr.clRep, .clZero3, .clZero11] → CodeLengthRun s i v r n →
      (brUnread s < n → Fails (exec i s) s .truncatedStream) ∧
        (n ≤ brUnread s → s.inf.hlit + s.inf.hdist < s.inf.lens.length + r → Fails (exec i s) s .invalidTable))

/-- O37. The elements that have no meaning in a stream end the call with the kind their rule names, in every state:
42_inflate.md R193, R214, R217, 44_png.md R266, R281, 45_jpeg_entropy.md R311, 48_jpeg_decoder.md R366. -/
def Obligations.ElementsWithoutMeaningFail : Prop :=
  ∀ s : State,
    (∀ b, Fails (exec (.blockReserved b) s) s .malformedContainer) ∧
    (∀ b, Fails (exec (.lenInvalid b) s) s .invalidBackreference) ∧
    (∀ b, Fails (exec (.distInvalid b) s) s .invalidBackreference) ∧
    (∀ v, Fails (exec (.ctInvalid v) s) s .unsupportedFeature) ∧
    (∀ v, Fails (exec (.filterInvalid v) s) s .malformedContainer) ∧
    (∀ v, Fails (exec (.dcInvalid v) s) s .invalidCode) ∧
    (∀ i ∈ [Instr.mSof1, .mSof2, .mSof3, .mSof5, .mSof6, .mSof7] ++ [.mSof9, .mSof10, .mSof11, .mSof13, .mSof14, .mSof15],
      Fails (exec i s) s .unsupportedFeature)

/-- O38. The fixed codes: 7, 8 or 9 bits that name a symbol, which the step latches; every bit pattern is a fixed
code: 30_encoding.md R110, 41_huffman.md R166, R167. -/
def Obligations.FixedCodesAreTakenWhole : Prop :=
  (∀ (sym : BitVec 9) (s : State), ∀ i ∈ [Instr.fixll0to143 sym, .fixll144to255 sym, .fixll256to279 sym, .fixll280to287 sym],
      exec i s = .next { s with inf := { s.inf with sym := sym.toNat }, point := .litlenSym }) ∧
    (∀ (sym : BitVec 5) (s : State),
      exec (.fixd0to31 sym) s = .next { s with inf := { s.inf with sym := sym.toNat }, point := .distSym }) ∧
    (∀ s : State, s.point = .litlenCode → s.inf.btype = 1#2 →
      (∃ (n w : Nat) (i : Instr), n ≤ brUnread s ∧ fetch s = .element .fixedLL w (brSeek (brPos s + n) s) ∧
          n = fixedLLBits w ∧ w = bitsMsb s (brPos s) n ∧ decode .fixedLL w = .ok i) ∨
        ((brUnread s < 7 ∨ (brUnread s < 8 ∧ 0x17 < bitsMsb s (brPos s) 7) ∨ (brUnread s < 9 ∧ 0xC7 < bitsMsb s (brPos s) 8)) ∧
          fetch s = .fail .truncatedStream s)) ∧
    (∀ s : State, s.point = .distCode → s.inf.btype = 1#2 →
      (5 ≤ brUnread s → fetch s = .element .fixedD (bitsMsb s (brPos s) 5) (brSeek (brPos s + 5) s)) ∧
        (brUnread s < 5 → fetch s = .fail .truncatedStream s))

/-- O39. ZLIB_HDR makes the three checks in order, takes the trailer as the expected Adler-32, and starts INF on the
bytes between: R241, R242, R243, R244. -/
def Obligations.ZlibHeaderIsCheckedInOrder : Prop :=
  ∀ (cmf flg : Byte) (s : State),
    let n := zlibLength s
    (cmf.toNat % 16 ≠ 8 → Fails (exec (.zlibHdr cmf flg) s) s .malformedContainer) ∧
    (cmf.toNat % 16 = 8 → (cmf.toNat * 256 + flg.toNat) % 31 ≠ 0 → Fails (exec (.zlibHdr cmf flg) s) s .malformedContainer) ∧
    (cmf.toNat % 16 = 8 → (cmf.toNat * 256 + flg.toNat) % 31 = 0 → flg.getLsbD 5 = true →
      Fails (exec (.zlibHdr cmf flg) s) s .unsupportedFeature) ∧
    (cmf.toNat % 16 = 8 → (cmf.toNat * 256 + flg.toNat) % 31 = 0 → flg.getLsbD 5 = false →
      exec (.zlibHdr cmf flg) s = .next { s with
        zlb := { s.zlb with
          cmf := cmf, flg := flg,
          expected := BitVec.ofNat 32 ((zlibByte s (n - 4)).toNat * 2 ^ 24 + (zlibByte s (n - 3)).toNat * 2 ^ 16 +
            (zlibByte s (n - 2)).toNat * 2 ^ 8 + (zlibByte s (n - 1)).toNat) },
        br := { space := if s.running = some .png then .idat else .input, base := 2, len := n - 6, bytePos := 0, bitPos := 0#3 },
        brLive := true, inf := .init, out := [], point := .blockHdr }) ∧
    (s.Ready → inLength s < 6 → Fails (exec .zlbDecompress s) s .truncatedStream)

/-- O40. The Adler-32 sums are 1 plus the sum of the bytes, and the length plus the weighted sum, modulo 65521:
43_zlib.md R246. -/
def Obligations.AdlerSumsAreTheWeightedSums : Prop :=
  ∀ bytes : List Byte,
    adlerSums bytes 1 0 =
      ((1 + (bytes.map (·.toNat)).sum) % 65521,
        (bytes.length + ((List.range bytes.length).map fun i => (bytes.length - i) * (bytes.getD i 0#8).toNat).sum) % 65521)

/-- O41. The signature and each chunk: what they latch, what they append, what they skip, and where they fail:
44_png.md R261, R265, R269, R270, R271, R272, R273, R260. -/
def Obligations.PngChunksActAsTheirRulesSay : Prop :=
  ∀ s : State,
    let l := s.png.chunkLength
    let pos := s.png.pos + 12 + l
    exec .pngSignature s = .next { s with png := { s.png with pos := 8 }, point := .pngChunk } ∧
    (s.png.seenIhdr = false → l = 13 → exec .chunkIhdr s = .next { s with point := .pngIhdr }) ∧
    (s.png.seenIhdr = true ∨ l ≠ 13 → Fails (exec .chunkIhdr s) s .malformedContainer) ∧
    (s.png.seenIhdr = true → s.png.seenPlte = false → l ≠ 0 → l % 3 = 0 → l ≤ 768 → ∃ plte : List Rgb,
      exec .chunkPlte s = .next { s with png := { s.png with plte := plte, seenPlte := true, pos := pos }, point := .pngChunk } ∧
        plte.length = l / 3 ∧ ∀ i, i < l / 3 →
          plte[i]? = some { r := chunkByte s (3 * i), g := chunkByte s (3 * i + 1), b := chunkByte s (3 * i + 2) }) ∧
    (s.png.seenIhdr = false ∨ s.png.seenPlte = true ∨ l = 0 ∨ l % 3 ≠ 0 ∨ 768 < l →
      Fails (exec .chunkPlte s) s .malformedContainer) ∧
    (s.png.seenIhdr = true → exec .chunkIdat s = .next { s with
      idat := s.idat ++ (List.range l).map (chunkByte s), png := { s.png with seenIdat := true, pos := pos },
      point := .pngChunk }) ∧
    (s.png.seenIhdr = false → Fails (exec .chunkIdat s) s .malformedContainer) ∧
    (s.png.seenIhdr = true → 6 ≤ s.idat.length →
      exec .chunkIend s = .next { s with running := some .png, point := .zlibHdr }) ∧
    (s.png.seenIhdr = true → s.idat.length < 6 → Fails (exec .chunkIend s) s .truncatedStream) ∧
    (s.png.seenIhdr = false → Fails (exec .chunkIend s) s .malformedContainer) ∧
    (∀ ty : Word, exec (.chunkOther ty) s = .next { s with png := { s.png with pos := pos }, point := .pngChunk })

/-- O42. IHDR's fields are latched and its colour type checked with depth, interlace and methods: 44_png.md R265,
R266, R267, R268, 30_encoding.md R113. -/
def Obligations.PngHeaderIsLatchedAndChecked : Prop :=
  (∀ (w h : Word) (d c co f l : Byte) (s : State),
      (w ≠ 0#32 → h ≠ 0#32 → exec (.ihdrPayload w h d c co f l) s = .next { s with
        png := { s.png with
          width := w, height := h, bitDepth := d, colorType := c, compression := co, filterMethod := f, interlace := l },
        point := .pngCheck }) ∧
      (w = 0#32 ∨ h = 0#32 → Fails (exec (.ihdrPayload w h d c co f l) s) s .malformedContainer)) ∧
    ∀ (i : Instr) (ct : Nat) (depths : List Nat), (i, ct, depths) ∈ colorRows →
      decode .pngColor ct = .ok i ∧
      ∀ s : State, s.point ≠ .pngConvert →
        let accepted := s.png.bitDepth.toNat ∈ depths ∧ s.png.interlace = 0#8 ∧ s.png.compression = 0#8 ∧ s.png.filterMethod = 0#8
        (accepted → exec i s = .next { s with
          png := { s.png with seenIhdr := true, pos := s.png.pos + 12 + s.png.chunkLength }, point := .pngChunk }) ∧
        (¬ accepted → Fails (exec i s) s .unsupportedFeature)

/-- O43. The scanline geometry; each filter type reconstructs its row byte by byte from the filtered byte and its
predictor: 44_png.md R274, R275, R276, R277, R278, R279, R280. -/
def Obligations.PngFiltersReconstructARow : Prop :=
  (∀ (p : Png) (ch : Nat), (p.colorType.toNat, ch) ∈ [(0, 1), (2, 3), (3, 1), (4, 2), (6, 4)] →
      let bits := ch * p.bitDepth.toNat
      pngRowBytes p = (p.width.toNat * bits + 7) / 8 ∧ pngBpp p = (if bits < 8 then 1 else bits / 8) ∧
        pngNeed p = p.height.toNat * (1 + (p.width.toNat * bits + 7) / 8)) ∧
  ∀ (i : Instr) (pred : Byte → Byte → Byte → Byte), (i, pred) ∈ filterRows → ∀ s : State,
    let n := pngRowBytes s.png
    let bpp := pngBpp s.png
    let start := s.png.row * (1 + n) + 1
    start + n ≤ s.raw.length → ∃ cur : List Byte,
      exec i s = .next { s with
        png := { s.png with cur := cur, prev := cur, image := s.png.image ++ [cur], row := s.png.row + 1 },
        point := if s.png.row + 1 < s.png.height.toNat then .pngRow else .pngConvert } ∧
      cur.length = n ∧ ∀ x, x < n →
        cur.getD x 0#8 = s.raw.getD (start + x) 0#8 +
          pred (if bpp ≤ x then cur.getD (x - bpp) 0#8 else 0#8) (s.png.prev.getD x 0#8)
            (if bpp ≤ x then s.png.prev.getD (x - bpp) 0#8 else 0#8)

/-- O44. For every filter type, filtering the reconstructed row gives back the filtered row: 44_png.md R275, R282. -/
def Obligations.FilteringUndoesReconstruction : Prop :=
  ∀ (i : Instr) (pred : Byte → Byte → Byte → Byte), (i, pred) ∈ filterRows → ∀ (bpp : Nat) (prev row : List Byte), 1 ≤ bpp →
    filterRow pred bpp prev (unfilterRow pred bpp prev row) = row ∧
      unfilterRow pred bpp prev (filterRow pred bpp prev row) = row

/-- O45. The Paeth predictor is the candidate nearest to a + b - c, a before b before c: R280. -/
def Obligations.PaethPicksTheNearest : Prop :=
  ∀ a b c : Byte,
    let far (x : Byte) : Nat := ((a.toNat : Int) + b.toNat - c.toNat - x.toNat).natAbs
    (paeth a b c = a ∨ paeth a b c = b ∨ paeth a b c = c) ∧
      (far (paeth a b c) ≤ far a ∧ far (paeth a b c) ≤ far b ∧ far (paeth a b c) ≤ far c) ∧
      (far a ≤ far b → far a ≤ far c → paeth a b c = a) ∧
      (far b < far a → far b ≤ far c → paeth a b c = b) ∧
      (far c < far a → far c < far b → paeth a b c = c)

/-- O46. The conversion: true-color passes through, gray is replicated and scaled, an index is looked up; then the
record (log 30): 44_png.md R283, R284, R285, R286, R287, R260, 10_state.md R24, R28, 20_memory.md R71,
70_reset_and_hazards.md R443. -/
def Obligations.PngPixelsAreConverted : Prop :=
  (∀ d ∈ [1, 2, 4, 8], ∀ (row : List Byte) (i : Nat), rowSample d row i < 2 ^ d ∧
      ∀ b, b < d → (rowSample d row i).testBit (d - 1 - b) = (row.getD ((i * d + b) / 8) 0#8).getLsbD (7 - (i * d + b) % 8)) ∧
  ∀ s : State, s.point = .pngConvert →
    let d := s.png.bitDepth.toNat
    let w := s.png.width.toNat
    ∃ b : Br, b.Inside (inLength s) ∧
    let done (ch : Nat) (px : List Byte) : State := { s.endedZlib b with
      out := px, resWidth := s.png.width, resHeight := s.png.height, resChannels := BitVec.ofNat 8 ch,
      resLen := resLenOf (w * s.png.height.toNat * ch) }
    exec .ctTruecolor s = .next (done 3 s.png.image.flatten) ∧
    exec .ctTruecolorAlpha s = .next (done 4 s.png.image.flatten) ∧
    (∃ f : List Byte → List Byte, exec .ctGray s = .next (done 3 (s.png.image.flatMap f)) ∧
      ∀ row, (f row).length = 3 * w ∧ ∀ i c, i < w → c < 3 →
        (f row)[3 * i + c]? = some (BitVec.ofNat 8
          (if d = 8 then rowSample d row i else rowSample d row i * 255 / (2 ^ d - 1)))) ∧
    (∃ f : List Byte → List Byte, exec .ctGrayAlpha s = .next (done 4 (s.png.image.flatMap f)) ∧
      ∀ row, (f row).length = 4 * w ∧ ∀ i c, i < w → c < 4 →
        (f row)[4 * i + c]? = some (if c < 3 then row.getD (2 * i) 0#8 else row.getD (2 * i + 1) 0#8)) ∧
    ((∀ row ∈ s.png.image, ∀ i, i < w → rowSample d row i < s.png.plte.length) →
      ∃ f : List Byte → List Byte, exec .ctIndexed s = .next (done 3 (s.png.image.flatMap f)) ∧
        ∀ row ∈ s.png.image, (f row).length = 3 * w ∧ ∀ i, i < w → ∀ e, s.png.plte[rowSample d row i]? = some e →
          (f row)[3 * i]? = some e.r ∧ (f row)[3 * i + 1]? = some e.g ∧ (f row)[3 * i + 2]? = some e.b) ∧
    ((∃ row ∈ s.png.image, ∃ i, i < w ∧ s.png.plte.length ≤ rowSample d row i) →
      Fails (exec .ctIndexed s) s .malformedContainer)

/-- O47. JHUF_BUILD stores its tree, JC_RESET clears the predictors and places JBR, JC_BLOCK starts a block (ARG1
above bit 7 ignored: log 11): 45_jpeg_entropy.md R301, R303, R308, R310, 93_implementation_defined.md U1, U4, U8,
30_encoding.md R103. -/
def Obligations.JpegUnitCommandsSetUpABlock : Prop :=
  ∀ s : State, s.Ready →
    let counts := (List.range 16).map fun k => (inByte s k).toNat
    let syms := (List.range counts.sum).map fun k => (inByte s (16 + k)).toNat
    let slot := s.arg0.toNat
    (8 ≤ slot → slot ≤ 15 → counts.sum ≤ 256 → 16 + counts.sum ≤ inLength s →
      (jadmitted counts = true → exec .jhufBuild s = .next { s.afterOk with
        jdc := if slot < 12 then s.jdc.set (slot - 8) (jbuildTree counts syms) else s.jdc,
        jac := if slot < 12 then s.jac else s.jac.set (slot - 12) (jbuildTree counts syms),
        jhuf := Config.jhuf s.draws, draws := s.draws + 1 }) ∧
      (jadmitted counts = false → exec .jhufBuild s = .refused .lengthsNotAdmitted)) ∧
    (slot < 8 ∨ 15 < slot ∨ 256 < counts.sum ∨ inLength s < 16 + counts.sum → exec .jhufBuild s = .refused .operandOutOfRange) ∧
    (s.arg0.toNat ≤ inLength s → exec .jcReset s = .next { s.afterOk with
      pred := [0, 0, 0], jbr := { pos := s.arg0.toNat, acc := 0#8, cnt := 0 }, jbrLive := true }) ∧
    (inLength s < s.arg0.toNat → exec .jcReset s = .refused .operandOutOfRange) ∧
    (s.jbrLive = true →
      let c := s.arg0.toNat
      let td := s.arg1.toNat % 16
      let ta := s.arg1.toNat / 16 % 16
      (c ≤ 2 → td ≤ 3 → ta ≤ 3 → dcValid s td = true → acValid s ta = true →
        exec .jcBlock s = .next { s.afterOk with
          status := statusBusy, running := some (.block c), point := .jpegDc, coef := List.replicate 64 0,
          jc := { s.jc with c := c, td := td, ta := ta, k := 0 } }) ∧
      (2 < c ∨ 3 < td ∨ 3 < ta → exec .jcBlock s = .refused .operandOutOfRange) ∧
      (c ≤ 2 → td ≤ 3 → ta ≤ 3 → dcValid s td = false ∨ acValid s ta = false → exec .jcBlock s = .refused .treeNotValid))

/-- O48. DC_CAT sets the DC coefficient, AC_EOB ends the block, AC_ZRL skips 16 places, AC_RUNSIZE skips its run and
stores one: 45_jpeg_entropy.md R305, R309, R310, R311, R312, 45_jpeg_entropy.md R313, R314, R315, R316. -/
def Obligations.BlockSymbolsFillTheBlock : Prop :=
  ∀ s : State,
    (∀ t : BitVec 4,
      (∀ m j, jbrReceive s t.toNat 0 s.jbr = some (m, j) →
        exec (.dcCat t) s = .next { s with
          jbr := j, pred := s.pred.set s.jc.c (s.pred.getD s.jc.c 0 + extend m t.toNat),
          coef := s.coef.set 0 (s.pred.getD s.jc.c 0 + extend m t.toNat), jc := { s.jc with k := 1 }, point := .jpegAc }) ∧
        (jbrReceive s t.toNat 0 s.jbr = none → Fails (exec (.dcCat t) s) s .truncatedStream)) ∧
    (∀ c, s.running = some (.block c) → exec .acEob s = .next { s.ended with resValue := BitVec.ofInt 32 (s.coef.getD 0 0) }) ∧
    (let u : State := { s with jc := { s.jc with k := s.jc.k + 16 } };
      (s.jc.k + 16 ≤ 63 → exec .acZrl s = .next { u with point := .jpegAc }) ∧ (63 < s.jc.k + 16 → exec .acZrl s = exec .acEob u)) ∧
    ∀ rs : Byte,
      let k := s.jc.k + rs.toNat / 16
      (63 < k → Fails (exec (.acRunsize rs) s) s .invalidCode) ∧
      (k ≤ 63 → jbrReceive s (rs.toNat % 16) 0 s.jbr = none → Fails (exec (.acRunsize rs) s) s .truncatedStream) ∧
      (k ≤ 63 → ∀ m j, jbrReceive s (rs.toNat % 16) 0 s.jbr = some (m, j) →
        let u := { s with jbr := j, coef := s.coef.set k (extend m (rs.toNat % 16)), jc := { s.jc with k := k + 1 } }
        (k < 63 → exec (.acRunsize rs) s = .next { u with point := .jpegAc }) ∧
          (k = 63 → exec (.acRunsize rs) s = exec .acEob u))

/-- O49. At the end of a block of a scan it is dequantized, transformed and placed; then the next block, a restart,
or the end of the scan: 48_jpeg_decoder.md R377, R378, R379, R381, R383, R386, 46_jpeg_dequant_idct.md R331, R336,
45_jpeg_entropy.md R310. -/
def Obligations.ScanBlockReachesItsPlane : Prop :=
  (∀ (d : Jdec) (i : Nat),
      (d.ncomp = 1 → factorH d i = 1 ∧ factorV d i = 1 ∧ mcusAcross d = (d.width + 7) / 8 ∧ mcusDown d = (d.height + 7) / 8) ∧
      (d.ncomp = 3 → factorH d i = (frameComp d i).h ∧ factorV d i = (frameComp d i).v ∧
        (let m := max (frameComp d 0).h (max (frameComp d 1).h (frameComp d 2).h);
          mcusAcross d = (d.width + 8 * m - 1) / (8 * m)) ∧
        (let m := max (frameComp d 0).v (max (frameComp d 1).v (frameComp d 2).v);
          mcusDown d = (d.height + 8 * m - 1) / (8 * m)))) ∧
  ∀ (s : State) (b : Option Nat), s.running = some (.jpeg b) → s.plane.length = 3 → s.jc.c < 3 →
    (∀ m ∈ s.plane, Memory.wf m = true) → blockX s + 8 ≤ planeWidth s.jdec s.jc.c →
    let t := (frameComp s.jdec s.jc.c).tq
    quantDefined s t = true → (∀ k, k < 64 → quantEntry s t k ≠ 0) →
    ∃ u, exec .acEob s = .next u ∧
      u.dq = (List.range 64).map (fun k => clamp (s.coef.getD k 0 * (quantEntry s t k : Int)) (-32768) 32767) ∧
      u.samp = idct u.dq ∧
      (∀ x y, x < 8 → y < 8 →
        Memory.read (u.plane.getD s.jc.c []) (planeAddress s.jdec s.jc.c (blockY s + y) (blockX s + x)) = u.samp.getD (8 * y + x) 0#8) ∧
      (∀ a, (∀ x y, x < 8 → y < 8 → a ≠ planeAddress s.jdec s.jc.c (blockY s + y) (blockX s + x)) →
        Memory.read (u.plane.getD s.jc.c []) a = Memory.read (s.plane.getD s.jc.c []) a) ∧
      (∀ i, i ≠ s.jc.c → u.plane.getD i [] = s.plane.getD i []) ∧
      u.pred = s.pred ∧ u.qt = s.qt ∧ u.qtDef = s.qtDef ∧ u.jdc = s.jdc ∧ u.jac = s.jac ∧ u.out = s.out ∧
      (u.point = .jpegDc → u.coef = List.replicate 64 0) ∧
      let j := s.jc
      let block (c bx by_ : Nat) : Jc :=
        { j with c := c, td := (scanComp s.jdec c).td, ta := (scanComp s.jdec c).ta, k := 0, bx := bx, by_ := by_ }
      let mcu (mx my : Nat) : Prop :=
        if s.jdec.restartInterval ≠ 0 ∧ s.jdec.mcuLeft = 0 then u.GoesOn .jpegRestart { j with mx := mx, my := my } s.jdec s.jbr
        else u.GoesOn .jpegDc { block 0 0 0 with mx := mx, my := my }
          { s.jdec with mcuLeft := if s.jdec.restartInterval = 0 then s.jdec.mcuLeft else s.jdec.mcuLeft - 1 } s.jbr
      if j.bx + 1 < factorH s.jdec j.c then u.GoesOn .jpegDc (block j.c (j.bx + 1) j.by_) s.jdec s.jbr
      else if j.by_ + 1 < factorV s.jdec j.c then u.GoesOn .jpegDc (block j.c 0 (j.by_ + 1)) s.jdec s.jbr
      else if j.c + 1 < s.jdec.ncomp then u.GoesOn .jpegDc (block (j.c + 1) 0 0) s.jdec s.jbr
      else if j.mx + 1 < mcusAcross s.jdec then mcu (j.mx + 1) j.my
      else if j.my + 1 < mcusDown s.jdec then mcu 0 (j.my + 1)
      else u.GoesOn .jpegMarker j { s.jdec with pos := s.jbr.pos, seenSos := true } { s.jbr with cnt := 0 }

/-- O50. extend maps the magnitudes of a category one to one onto its values, by sign and magnitude: R309. -/
def Obligations.ExtendCoversItsCategory : Prop :=
  (∀ m, extend m 0 = 0) ∧
    ∀ s, 1 ≤ s →
      (∀ m, m < 2 ^ s →
        (m.testBit (s - 1) = true → extend m s = m ∧ (2 : Int) ^ (s - 1) ≤ extend m s ∧ extend m s ≤ 2 ^ s - 1) ∧
          (m.testBit (s - 1) = false →
            extend m s = (m : Int) - (2 ^ s - 1) ∧ -((2 : Int) ^ s - 1) ≤ extend m s ∧ extend m s ≤ -(2 : Int) ^ (s - 1))) ∧
      ∀ v : Int, ((2 : Int) ^ (s - 1) ≤ v ∧ v ≤ 2 ^ s - 1) ∨ (-((2 : Int) ^ s - 1) ≤ v ∧ v ≤ -(2 : Int) ^ (s - 1)) →
        ∃ m, m < 2 ^ s ∧ extend m s = v

/-- O51. JDQ_LOAD loads 64 non-zero entries of one or two bytes; JDQ_BLOCK multiplies and clamps each coefficient:
R330, R331, R333. -/
def Obligations.QuantizationTablesLoadAndApply : Prop :=
  ∀ s : State, s.Ready →
    (let t := s.arg0.toNat % 16
      let p := s.arg0.getLsbD 4
      let size := if p then 128 else 64
      (t ≤ 3 → s.arg0.toNat < 32 → size ≤ inLength s → ∀ entries : List Nat, entries.length = 64 →
        (∀ k, k < 64 → entries.getD k 0 =
          if p then (inByte s (2 * k)).toNat * 256 + (inByte s (2 * k + 1)).toNat else (inByte s k).toNat) →
        (0 ∉ entries → exec .jdqLoad s = .next { s.afterOk with
          qt := s.qt.set t entries, qtPrec := s.qtPrec.set t p, qtDef := s.qtDef.set t true }) ∧
        (0 ∈ entries → s.Legal → ∃ u, exec .jdqLoad s = .next u ∧ s.FailedFrom u .invalidTable ∧ u.qtDef = s.qtDef.set t false)) ∧
      (3 < t ∨ 32 ≤ s.arg0.toNat ∨ inLength s < size → exec .jdqLoad s = .refused .operandOutOfRange)) ∧
    (let t := s.arg0.toNat;
      (t ≤ 3 →
        (s.qtDef.getD t false = true → (∀ k, k < 64 → quantEntry s t k ≠ 0) → exec .jdqBlock s = .next { s.afterOk with
          dq := (List.range 64).map fun k => clamp (s.coef.getD k 0 * (quantEntry s t k : Int)) (-32768) 32767 }) ∧
        (s.qtDef.getD t false = false ∨ (∃ k, k < 64 ∧ quantEntry s t k = 0) → s.Legal →
          Fails (exec .jdqBlock s) s .invalidTable)) ∧
      (3 < t → exec .jdqBlock s = .refused .operandOutOfRange))

/-- O52. JIDCT_BLOCK: each sample is the rounded, shifted and clamped double sum over the un-zigzagged coefficients:
R335, R336. -/
def Obligations.InverseTransformIsTheDoubleSum : Prop :=
  ∀ s : State, s.Ready → ∃ samp : List Byte, exec .jidctBlock s = .next { s.afterOk with samp := samp } ∧ samp.length = 64 ∧
    ∀ x y, x < 8 → y < 8 →
      let f (v u : Nat) : Int := s.dq.getD (zigzag.idxOf (8 * v + u)) 0
      let total : Int := ((List.range 8).map fun v => kernelAt v y * ((List.range 8).map fun u => kernelAt u x * f v u).sum).sum
      samp.getD (8 * y + x) 0#8 = BitVec.ofInt 8 (clamp ((total + 2 ^ 25) / 2 ^ 26 + 128) 0 255)

/-- O53. The inverse transform of an all-zero block is 128 everywhere, of a DC-only block one value everywhere:
46_jpeg_dequant_idct.md R336, R337, R339. -/
def Obligations.DcOnlyBlocksAreUniform : Prop :=
  ∀ s : State, s.Ready →
    (s.dq = List.replicate 64 0 → exec .jidctBlock s = .next { s.afterOk with samp := List.replicate 64 128#8 }) ∧
    ∀ d : Int, s.dq = d :: List.replicate 63 0 → exec .jidctBlock s = .next { s.afterOk with
      samp := List.replicate 64 (BitVec.ofInt 8 (clamp ((8386816 * d + 2 ^ 25) / 2 ^ 26 + 128) 0 255)) }

/-- O54. JCC_PIXEL gives the three clamped fixed-point sums, JCC_GRAY the gray value three times (ARG0[31:8]
ignored: log 11): 47_jpeg_color.md R351, R352, R354. -/
def Obligations.ColorCommandsConvertOnePixel : Prop :=
  ∀ s : State, s.Ready →
    let y : Int := ((s.arg0.toNat % 256 : Nat) : Int)
    let cb : Int := ((s.arg0.toNat / 2 ^ 8 % 256 : Nat) : Int) - 128
    let cr : Int := ((s.arg0.toNat / 2 ^ 16 % 256 : Nat) : Int) - 128
    (∃ v : Word, exec .jccPixel s = .next { s.afterOk with resValue := v } ∧
      (v.toNat % 256 : Nat) = clamp ((y * 2 ^ 16 + 91881 * cr + 32768) / 2 ^ 16) 0 255 ∧
      (v.toNat / 2 ^ 8 % 256 : Nat) = clamp ((y * 2 ^ 16 - 22553 * cb - 46802 * cr + 32768) / 2 ^ 16) 0 255 ∧
      (v.toNat / 2 ^ 16 % 256 : Nat) = clamp ((y * 2 ^ 16 + 116130 * cb + 32768) / 2 ^ 16) 0 255 ∧ v.toNat < 2 ^ 24 ∧
      (cb = 0 → cr = 0 → v.toNat = s.arg0.toNat % 256 * 0x10101)) ∧
    (∃ v : Word, exec .jccGray s = .next { s.afterOk with resValue := v } ∧ v.toNat = s.arg0.toNat % 256 * 0x10101)

/-- O55. The fixed-point colour conversion differs from the exact reference by at most 1 in every channel, on every
pixel: R353. -/
def Obligations.ColorConversionIsWithinTolerance : Prop :=
  (∀ y cb cr : Byte,
      let u : Int := (cb.toNat : Int) - 128
      let v : Int := (cr.toNat : Int) - 128
      let near (n : Int) : Int := clamp ((2 * n + 1000000) / 2000000) 0 255
      let r := near (1000000 * y.toNat + 1402000 * v)
      let g := near (1000000 * y.toNat - 344136 * u - 714136 * v)
      let b := near (1000000 * y.toNat + 1772000 * u)
      ((colorR y cr).toNat - r).natAbs ≤ 1 ∧ ((colorG y cb cr).toNat - g).natAbs ≤ 1 ∧ ((colorB y cb).toNat - b).natAbs ≤ 1) ∧
    (colorG 128#8 73#8 137#8).toNat = 140 ∧
      clamp ((2 * (1000000 * 128 - 344136 * (73 - 128) - 714136 * (137 - 128)) + 1000000) / 2000000) 0 255 = 141

/-- O56. SOI, EOI, DRI, RSTn and the skipped segments: their effect, and where they, the segments and a restart fail
(EOI: log 30): 48_jpeg_decoder.md R360, R361, R363, R364, R369, R371, R372, R377, R384, R385, R387, R388,
45_jpeg_entropy.md R308, 10_state.md R24, R28, R54, 20_memory.md R71, 70_reset_and_hazards.md R443. -/
def Obligations.JpegMarkersActAsTheirRulesSay : Prop :=
  ∀ s : State,
    (s.jdec.seenSoi = false → exec .mSoi s = .next { s with jdec := { s.jdec with pos := 2, seenSoi := true }, point := .jpegMarker }) ∧
    (s.jdec.seenSoi = true → Fails (exec .mSoi s) s .malformedContainer) ∧
    (∀ (code : Byte) (payload : List Byte), s.SegmentIs payload → exec (.mOther code) s = .next (s.pastSegment payload)) ∧
    (∀ hi lo : Byte, s.SegmentIs [hi, lo] → exec .mDri s = .next { s.pastSegment [hi, lo] with
      jdec := { s.jdec with pos := s.jdec.pos + 4, restartInterval := hi.toNat * 256 + lo.toNat } }) ∧
    (∀ payload : List Byte, payload.length ≠ 2 → s.SegmentIs payload → Fails (exec .mDri s) s .malformedContainer) ∧
    (s.jdec.seenSos = true → ∃ (b : Br) (j : Jbr), b.Inside (inLength s) ∧ j.Inside (inLength s) ∧
      exec .mEoi s = .next { s.endedJpeg b j with
      jdec := { s.jdec with seenEoi := true }, resWidth := BitVec.ofNat 32 s.jdec.width,
      resHeight := BitVec.ofNat 32 s.jdec.height, resChannels := 3#8, resLen := resLenOf (s.jdec.width * s.jdec.height * 3),
      out := (List.range s.jdec.height).flatMap fun y => (List.range s.jdec.width).flatMap fun x =>
        let sample (i : Nat) : Byte := Memory.read (s.plane.getD i [])
          (y * factorV s.jdec i / maxV s.jdec * (mcusAcross s.jdec * factorH s.jdec i * 8) + x * factorH s.jdec i / maxH s.jdec)
        if s.jdec.ncomp = 1 then [sample 0, sample 0, sample 0]
        else [colorR (sample 0) (sample 2), colorG (sample 0) (sample 1) (sample 2), colorB (sample 0) (sample 1)] }) ∧
    (s.jdec.seenSos = false → Fails (exec .mEoi s) s .malformedContainer) ∧
    (∀ n : BitVec 3,
      (s.point = .jpegRestart → n.toNat = s.jdec.rstNext → exec (.mRst n) s = .next { s with
        jbr := { pos := s.jbr.pos + 2, acc := 0#8, cnt := 0 }, pred := [0, 0, 0],
        jdec := { s.jdec with rstNext := (s.jdec.rstNext + 1) % 8, mcuLeft := s.jdec.restartInterval - 1 },
        coef := List.replicate 64 0, point := .jpegDc,
        jc := { s.jc with
          c := 0, bx := 0, by_ := 0, k := 0, td := (scanComp s.jdec 0).td, ta := (scanComp s.jdec 0).ta } }) ∧
      (s.point ≠ .jpegRestart ∨ n.toNat ≠ s.jdec.rstNext → Fails (exec (.mRst n) s) s .malformedContainer)) ∧
    (s.point = .jpegRestart →
      (inLength s < s.jbr.pos + 2 → Fails (step s) s .truncatedStream) ∧
      (s.jbr.pos + 2 ≤ inLength s →
        inByte s s.jbr.pos ≠ 0xFF#8 ∨ (inByte s (s.jbr.pos + 1)).toNat ≠ 0xD0 + s.jdec.rstNext → Fails (step s) s .malformedContainer)) ∧
    (∀ (code : Byte) (i : Instr), i ∈ [Instr.mOther code, .mDri, .mSof0, .mDqt, .mDht, .mSos] →
      let p := s.jdec.pos
      let l := (inByte s p).toNat * 256 + (inByte s (p + 1)).toNat
      (inLength s < p + 2 → Fails (exec i s) s .truncatedStream) ∧
      (p + 2 ≤ inLength s → l < 2 → Fails (exec i s) s .malformedContainer) ∧
      (p + 2 ≤ inLength s → 2 ≤ l → inLength s < p + l → Fails (exec i s) s .truncatedStream))

/-- O57. SOF0 latches the frame of one or three components when every check of R367 holds: 48_jpeg_decoder.md R363,
R365, R367, R377. -/
def Obligations.FrameHeaderIsParsedAndChecked : Prop :=
  (∀ (s : State) (payload : List Byte), s.SegmentIs payload → payload.length < 6 → Fails (exec .mSof0 s) s .malformedContainer) ∧
  ∀ (s : State) (p hh hl wh wl n : Byte) (rest : List Byte) (comps : List FrameComp),
    s.SegmentIs (p :: hh :: hl :: wh :: wl :: n :: rest) →
    let h := hh.toNat * 256 + hl.toNat
    let w := wh.toNat * 256 + wl.toNat
    (s.jdec.seenSof = true ∨ rest.length ≠ 3 * n.toNat → Fails (exec .mSof0 s) s .malformedContainer) ∧
    (s.jdec.seenSof = false → rest.length = 3 * n.toNat →
      (p ≠ 8#8 → Fails (exec .mSof0 s) s .unsupportedFeature) ∧
      (p = 8#8 → w = 0 → Fails (exec .mSof0 s) s .malformedContainer) ∧
      (p = 8#8 → w ≠ 0 → h = 0 → Fails (exec .mSof0 s) s .unsupportedFeature) ∧
      (p = 8#8 → w ≠ 0 → h ≠ 0 → n = 0#8 → Fails (exec .mSof0 s) s .malformedContainer) ∧
      (p = 8#8 → w ≠ 0 → h ≠ 0 → n = 2#8 ∨ 3 < n.toNat → Fails (exec .mSof0 s) s .unsupportedFeature) ∧
      (p = 8#8 → w ≠ 0 → h ≠ 0 → n = 1#8 ∨ n = 3#8 → comps.length = n.toNat →
        (∀ i, i < n.toNat → comps[i]? = some {
          id := rest.getD (3 * i) 0#8, h := (rest.getD (3 * i + 1) 0#8).toNat / 16,
          v := (rest.getD (3 * i + 1) 0#8).toNat % 16, tq := (rest.getD (3 * i + 2) 0#8).toNat }) →
        let maxOf (f : FrameComp → Nat) : Nat := (comps.map f).foldl max 0
        ((∃ c ∈ comps, c.h = 0 ∨ 4 < c.h ∨ c.v = 0 ∨ 4 < c.v ∨ 3 < c.tq) → Fails (exec .mSof0 s) s .malformedContainer) ∧
        ((∀ c ∈ comps, c.h ≠ 0 ∧ c.h ≤ 4 ∧ c.v ≠ 0 ∧ c.v ≤ 4 ∧ c.tq ≤ 3) →
          (¬ (comps.map (·.id)).Nodup → Fails (exec .mSof0 s) s .malformedContainer) ∧
          ((comps.map (·.id)).Nodup →
            let divides := ∀ c ∈ comps, c.h ∣ maxOf (·.h) ∧ c.v ∣ maxOf (·.v)
            (n = 3#8 → ¬ divides → Fails (exec .mSof0 s) s .unsupportedFeature) ∧
            (n = 1#8 ∨ divides → exec .mSof0 s = .next { s with
              jdec := { s.jdec with
                pos := s.jdec.pos + (rest.length + 6) + 2, precision := p, height := h, width := w, ncomp := n.toNat,
                comps := comps, seenSof := true },
              point := .jpegMarker })))))

/-- O58. DQT and DHT load each table of their payload in order and go on at the next marker, or fail or are refused
at the first bad one: 48_jpeg_decoder.md R363, R368, R370, 46_jpeg_dequant_idct.md R330, R333, 45_jpeg_entropy.md
R302, R303, 60_exceptions.md R405. -/
def Obligations.TableSegmentsLoadEveryTable : Prop :=
  ∀ s : State,
    (∀ tables : List (Nat × Bool × List Nat), (∀ x ∈ tables, QuantTableOk x.1 x.2.1 x.2.2) →
      let good := tables.flatMap fun x => quantTableBytes x.1 x.2.1 x.2.2
      (s.SegmentIs good →
        exec .mDqt s = .next (tables.foldl (fun u x => u.withQuant x.1 x.2.1 x.2.2) (s.pastSegment good))) ∧
      (∀ (pt : Byte) (rest : List Byte), s.SegmentIs (good ++ pt :: rest) →
        1 < pt.toNat / 16 ∨ 3 < pt.toNat % 16 ∨ rest.length < 64 * (1 + pt.toNat / 16) → Fails (exec .mDqt s) s .malformedContainer) ∧
      (∀ (t : Nat) (wide : Bool) (entries : List Nat) (tail : List Byte), t ≤ 3 → entries.length = 64 →
        (∀ q ∈ entries, q < (if wide then 65536 else 256)) → 0 ∈ entries →
        s.SegmentIs (good ++ quantTableBytes t wide entries ++ tail) →
        ∃ u, exec .mDqt s = .next u ∧ s.FailedFrom u .invalidTable ∧
          (∀ b, s.running = some (.jpeg b) → u.qtDef.getD t true = false))) ∧
    (∀ tables : List (Bool × Nat × List Nat × List Nat), (∀ x ∈ tables, HuffTableOk x.2.1 x.2.2.1 x.2.2.2) →
      let good := tables.flatMap fun x => huffTableBytes x.1 x.2.1 x.2.2.1 x.2.2.2
      (s.SegmentIs good →
        exec .mDht s = .next (tables.foldl (fun u x => u.withHuff x.1 x.2.1 x.2.2.1 x.2.2.2) (s.pastSegment good))) ∧
      (∀ (tc : Byte) (rest : List Byte), s.SegmentIs (good ++ tc :: rest) →
        let n := ((rest.take 16).map (·.toNat)).sum
        1 < tc.toNat / 16 ∨ 3 < tc.toNat % 16 ∨ rest.length < 16 ∨ 256 < n ∨ rest.length < 16 + n →
          Fails (exec .mDht s) s .malformedContainer) ∧
      (∀ (ac : Bool) (h : Nat) (counts syms : List Nat) (tail : List Byte), h ≤ 3 → counts.length = 16 →
        syms.length = counts.sum → counts.sum ≤ 256 → (∀ c ∈ counts, c < 256) → jadmitted counts = false →
        s.SegmentIs (good ++ huffTableBytes ac h counts syms ++ tail) → exec .mDht s = .refused .lengthsNotAdmitted))

/-- O59. SOS with a header that matches the frame and all its tables starts the scan at the first block:
48_jpeg_decoder.md R363, R373, R374, R375, R376, R378, 45_jpeg_entropy.md R308, R310. -/
def Obligations.ScanHeaderStartsTheScan : Prop :=
  (∀ s : State, s.SegmentIs [] →
      (s.jdec.seenSof = true → s.jdec.seenSos = true → Fails (exec .mSos s) s .unsupportedFeature) ∧
      (s.jdec.seenSof = false ∨ s.jdec.seenSos = false → Fails (exec .mSos s) s .malformedContainer)) ∧
  ∀ (s : State) (n : Byte) (rest : List Byte) (comps : List ScanComp),
    let payload := n :: rest
    s.SegmentIs payload →
    (s.jdec.seenSof = false → Fails (exec .mSos s) s .malformedContainer) ∧
    (s.jdec.seenSof = true → s.jdec.seenSos = true → Fails (exec .mSos s) s .unsupportedFeature) ∧
    (s.jdec.seenSof = true → s.jdec.seenSos = false →
      (rest.length ≠ 3 + 2 * n.toNat → Fails (exec .mSos s) s .malformedContainer) ∧
      (rest.length = 3 + 2 * n.toNat → n.toNat ≠ s.jdec.ncomp → Fails (exec .mSos s) s .unsupportedFeature) ∧
      (rest.length = 3 + 2 * n.toNat → n.toNat = s.jdec.ncomp → comps.length = n.toNat →
        (∀ j, j < n.toNat → comps[j]? = some {
          cs := rest.getD (2 * j) 0#8, td := (rest.getD (2 * j + 1) 0#8).toNat / 16,
          ta := (rest.getD (2 * j + 1) 0#8).toNat % 16 }) →
        let spectral := rest.getD (2 * n.toNat) 0#8 = 0#8 ∧ rest.getD (2 * n.toNat + 1) 0#8 = 63#8 ∧
          rest.getD (2 * n.toNat + 2) 0#8 = 0#8
        let matching := ∀ j, j < n.toNat → (scanComp { s.jdec with scanComps := comps } j).cs = (frameComp s.jdec j).id ∧
          (comps.getD j { cs := 0#8, td := 0, ta := 0 }).td ≤ 3 ∧ (comps.getD j { cs := 0#8, td := 0, ta := 0 }).ta ≤ 3
        let ready := ∀ j, j < n.toNat → quantDefined s (frameComp s.jdec j).tq = true ∧
          dcValid s (comps.getD j { cs := 0#8, td := 0, ta := 0 }).td = true ∧
          acValid s (comps.getD j { cs := 0#8, td := 0, ta := 0 }).ta = true
        (¬ matching → Fails (exec .mSos s) s .malformedContainer) ∧
        (matching → ¬ spectral → Fails (exec .mSos s) s .unsupportedFeature) ∧
        (matching → spectral → ¬ ready → Fails (exec .mSos s) s .invalidTable) ∧
        (matching → spectral → ready →
          let first := comps.getD 0 { cs := 0#8, td := 0, ta := 0 }
          exec .mSos s = .next { s with
            jdec := { s.jdec with
              pos := s.jdec.pos + payload.length + 2, ns := n.toNat, scanComps := comps, ss := 0, se := 63, ah := 0, al := 0,
              mcuLeft := s.jdec.restartInterval - 1, rstNext := 0 },
            pred := [0, 0, 0], jbr := { pos := s.jdec.pos + payload.length + 2, acc := 0#8, cnt := 0 }, jbrLive := true,
            coef := List.replicate 64 0, point := .jpegDc,
            jc := { c := 0, td := first.td, ta := first.ta, k := 0, mx := 0, my := 0, bx := 0, by_ := 0 } })))

/-- O60. JBR delivers the destuffed bits most significant first; a block's symbols are fetched from them through its
trees: 45_jpeg_entropy.md R304, R305, R306, R307, 10_state.md R54. -/
def Obligations.JpegBitsAreDeliveredInOrder : Prop :=
  (∀ (s : State) (j : Jbr) (n : Nat),
      (n ≤ (entropyBits s j).length → ∃ j', jbrReceive s n 0 j = some (bitsNumber ((entropyBits s j).take n), j') ∧
        entropyBits s j' = (entropyBits s j).drop n) ∧
      ((entropyBits s j).length < n → jbrReceive s n 0 j = none)) ∧
    ∀ (s : State) (p : Point) (f : Format) (tr : Tree),
      (p, f, tr) ∈ [(Point.jpegDc, Format.jpegDc, s.jdc.getD s.jc.td .absent), (.jpegAc, .jpegAc, s.jac.getD s.jc.ta .absent)] →
      s.point = p →
      let bits := entropyBits s s.jbr
      (tr.valid = false → fetch s = .refuse .treeNotValid) ∧
      (tr.valid = true → ∀ n, n ≤ bits.length →
        (∀ v, treeCode tr.nodes 0 (bits.take n) = some v →
          ∃ j, fetch s = .element f v { s with jbr := j } ∧ entropyBits s j = bits.drop n) ∧
        (∀ m, treePath tr.nodes 0 (bits.take n) = some m →
          (∀ b, bits[n]? = some b → childOf tr.nodes m b = none → ∃ j, fetch s = .fail .invalidCode { s with jbr := j }) ∧
            (n = bits.length → fetch s = .fail .truncatedStream s)))
end

