-- ==== Sys2Proof/Laws/Entropy.lean ====
section
/-! SUPPORT. What the bit reader of entropy-coded data gives (45_jpeg_entropy.md R304, R306). -/

namespace Sys2Proof.Machine

/-- The input bytes up to the end, one taken off. -/
theorem inBytes_eq_cons (s : State) (p : Nat) (h : p < inLength s) :
    inBytes s p (inLength s - p) = inByte s p :: inBytes s (p+1) (inLength s - (p+1)) := by
  unfold inBytes
  obtain ⟨n, hn⟩ : ∃ n, inLength s - p = n + 1 := ⟨inLength s - p - 1, by omega⟩
  rw [hn, show inLength s - (p+1) = n by omega, List.range_succ_eq_map, List.map_cons, List.map_map]
  simp only [Nat.add_zero]; congr 1
  apply List.map_congr_left; intro a _; simp only [Function.comp]; congr 1; omega

/-- A byte other than `FF` is data (R304). -/
theorem entropyBytes_cons (v : Byte) (hv : v ≠ 0xFF#8) (l : List Byte) : entropyBytes (v :: l) = v :: entropyBytes l := by
  cases l with
  | nil => simp [entropyBytes, hv]
  | cons w l => simp [entropyBytes, hv]

/-- The bits of a byte, the first one taken off. -/
theorem byteBits_eq_cons (v : Byte) : ((List.range 8).map fun i => v.getLsbD (7 - i)) = v.getLsbD 7 :: (List.range 7).map fun i => v.getLsbD (7 - 1 - i) := by
  simp [List.range_succ_eq_map]

/-- `JBR.readBit()` delivers the first of the bits left and leaves the rest, fewer by one; with none left it has none
(R304, R306). -/
theorem jbrBit_spec (s : State) (j : Jbr) :
    (∀ b bs, entropyBits s j = b :: bs → ∃ j', jbrBit s j = some (b, j') ∧ entropyBits s j' = bs ∧ 8 * (inLength s - j'.pos) + j'.cnt + 1 ≤ 8 * (inLength s - j.pos) + j.cnt) ∧
    (entropyBits s j = [] → jbrBit s j = none) := by
  unfold jbrBit
  by_cases hc : j.cnt ≠ 0
  · rw [if_pos hc]
    obtain ⟨n, hn⟩ : ∃ n, j.cnt = n + 1 := ⟨j.cnt - 1, by omega⟩
    have e : entropyBits s j = j.acc.getLsbD (j.cnt - 1) :: entropyBits s { j with cnt := j.cnt - 1 } := by
      simp only [entropyBits]
      rw [hn, List.range_succ_eq_map, List.map_cons, List.map_map, List.cons_append]
      simp only [Nat.sub_zero]; congr 2
      apply List.map_congr_left; intro a _; simp only [Function.comp]; congr 1; omega
    rw [e]
    refine ⟨fun b bs h => ⟨_, by simp at h; rw [h.1], by simp at h; exact h.2, by simp; omega⟩, fun h => by simp at h⟩
  · rw [if_neg hc]
    simp only [ne_eq, Decidable.not_not] at hc
    have e0 : entropyBits s j = (entropyBytes (inBytes s j.pos (inLength s - j.pos))).flatMap fun v => (List.range 8).map fun i => v.getLsbD (7 - i) := by
      simp [entropyBits, hc]
    by_cases h1 : inLength s ≤ j.pos
    · rw [if_pos h1]
      have : entropyBits s j = [] := by rw [e0, show inLength s - j.pos = 0 by omega]; rfl
      rw [this]; simp
    · rw [if_neg h1]
      rw [inBytes_eq_cons s j.pos (by omega)] at e0
      by_cases hf : inByte s j.pos = 0xFF#8
      · rw [if_pos hf]
        by_cases h2 : inLength s ≤ j.pos + 1
        · rw [if_pos (.inl h2)]
          have : entropyBits s j = [] := by rw [e0, show inLength s - (j.pos + 1) = 0 by omega, hf]; rfl
          rw [this]; simp
        · rw [inBytes_eq_cons s (j.pos+1) (by omega), hf] at e0
          by_cases h3 : inByte s (j.pos + 1) ≠ 0x00#8
          · rw [if_pos (.inr h3)]
            have : entropyBits s j = [] := by rw [e0]; simp [entropyBytes, h3]
            rw [this]; simp
          · rw [if_neg (by rintro (h|h); exact h2 h; exact h3 h)]
            simp only [ne_eq, Decidable.not_not] at h3
            have : entropyBits s j = true :: entropyBits s { pos := j.pos + 2, acc := 0xFF#8, cnt := 7 } := by
              rw [e0, h3]; simp only [entropyBytes, if_true, List.flatMap_cons, byteBits_eq_cons]; rfl
            rw [this]
            refine ⟨fun b bs h => ?_, fun h => by simp at h⟩
            simp at h; obtain ⟨rfl, rfl⟩ := h; exact ⟨_, rfl, rfl, by simp; omega⟩
      · rw [if_neg hf]
        have : entropyBits s j = (inByte s j.pos).getLsbD 7 :: entropyBits s { pos := j.pos + 1, acc := inByte s j.pos, cnt := 7 } := by
          rw [e0, entropyBytes_cons _ hf]; simp only [List.flatMap_cons, byteBits_eq_cons]; rfl
        rw [this]
        refine ⟨fun b bs h => ?_, fun h => by simp at h⟩
        simp at h; obtain ⟨rfl, rfl⟩ := h; exact ⟨_, rfl, rfl, by simp; omega⟩

end Sys2Proof.Machine
end

