-- ==== Sys2Proof/Laws/State.lean ====
section
/-! SUPPORT. One lemma per field per named update of the state. -/

namespace Sys2Proof.Machine

@[simp] theorem beginCall_cmd (c : Call) (s : State) : (beginCall c s).cmd = s.cmd := rfl
@[simp] theorem beginCall_status (c : Call) (s : State) : (beginCall c s).status = statusBusy := rfl
@[simp] theorem beginCall_errkind (c : Call) (s : State) : (beginCall c s).errkind = 0#8 := rfl
@[simp] theorem beginCall_diag (c : Call) (s : State) : (beginCall c s).diag = [] := rfl
@[simp] theorem beginCall_arg0 (c : Call) (s : State) : (beginCall c s).arg0 = s.arg0 := rfl
@[simp] theorem beginCall_arg1 (c : Call) (s : State) : (beginCall c s).arg1 = s.arg1 := rfl
@[simp] theorem beginCall_inBase (c : Call) (s : State) : (beginCall c s).inBase = s.inBase := rfl
@[simp] theorem beginCall_inLen (c : Call) (s : State) : (beginCall c s).inLen = s.inLen := rfl
@[simp] theorem beginCall_resValue (c : Call) (s : State) : (beginCall c s).resValue = 0#32 := rfl
@[simp] theorem beginCall_resWidth (c : Call) (s : State) : (beginCall c s).resWidth = 0#32 := rfl
@[simp] theorem beginCall_resHeight (c : Call) (s : State) : (beginCall c s).resHeight = 0#32 := rfl
@[simp] theorem beginCall_resChannels (c : Call) (s : State) : (beginCall c s).resChannels = 0#8 := rfl
@[simp] theorem beginCall_resLen (c : Call) (s : State) : (beginCall c s).resLen = 0#32 := rfl
@[simp] theorem beginCall_input (c : Call) (s : State) : (beginCall c s).input = s.input := rfl
@[simp] theorem beginCall_out (c : Call) (s : State) : (beginCall c s).out = [] := rfl
@[simp] theorem beginCall_idat (c : Call) (s : State) : (beginCall c s).idat = s.idat := rfl
@[simp] theorem beginCall_raw (c : Call) (s : State) : (beginCall c s).raw = s.raw := rfl
@[simp] theorem beginCall_win (c : Call) (s : State) : (beginCall c s).win = s.win := rfl
@[simp] theorem beginCall_br (c : Call) (s : State) : (beginCall c s).br = s.br := rfl
@[simp] theorem beginCall_brLive (c : Call) (s : State) : (beginCall c s).brLive = s.brLive := rfl
@[simp] theorem beginCall_tFixLL (c : Call) (s : State) : (beginCall c s).tFixLL = s.tFixLL := rfl
@[simp] theorem beginCall_tFixD (c : Call) (s : State) : (beginCall c s).tFixD = s.tFixD := rfl
@[simp] theorem beginCall_tCl (c : Call) (s : State) : (beginCall c s).tCl = s.tCl := rfl
@[simp] theorem beginCall_tLl (c : Call) (s : State) : (beginCall c s).tLl = s.tLl := rfl
@[simp] theorem beginCall_tD (c : Call) (s : State) : (beginCall c s).tD = s.tD := rfl
@[simp] theorem beginCall_tUser (c : Call) (s : State) : (beginCall c s).tUser = s.tUser := rfl
@[simp] theorem beginCall_jdc (c : Call) (s : State) : (beginCall c s).jdc = s.jdc := rfl
@[simp] theorem beginCall_jac (c : Call) (s : State) : (beginCall c s).jac = s.jac := rfl
@[simp] theorem beginCall_huf (c : Call) (s : State) : (beginCall c s).huf = s.huf := rfl
@[simp] theorem beginCall_inf (c : Call) (s : State) : (beginCall c s).inf = s.inf := rfl
@[simp] theorem beginCall_zlb (c : Call) (s : State) : (beginCall c s).zlb = s.zlb := rfl
@[simp] theorem beginCall_png (c : Call) (s : State) : (beginCall c s).png = s.png := rfl
@[simp] theorem beginCall_crcT (c : Call) (s : State) : (beginCall c s).crcT = s.crcT := rfl
@[simp] theorem beginCall_jdec (c : Call) (s : State) : (beginCall c s).jdec = s.jdec := rfl
@[simp] theorem beginCall_qt (c : Call) (s : State) : (beginCall c s).qt = s.qt := rfl
@[simp] theorem beginCall_qtPrec (c : Call) (s : State) : (beginCall c s).qtPrec = s.qtPrec := rfl
@[simp] theorem beginCall_qtDef (c : Call) (s : State) : (beginCall c s).qtDef = s.qtDef := rfl
@[simp] theorem beginCall_jhuf (c : Call) (s : State) : (beginCall c s).jhuf = s.jhuf := rfl
@[simp] theorem beginCall_pred (c : Call) (s : State) : (beginCall c s).pred = s.pred := rfl
@[simp] theorem beginCall_coef (c : Call) (s : State) : (beginCall c s).coef = s.coef := rfl
@[simp] theorem beginCall_dq (c : Call) (s : State) : (beginCall c s).dq = s.dq := rfl
@[simp] theorem beginCall_samp (c : Call) (s : State) : (beginCall c s).samp = s.samp := rfl
@[simp] theorem beginCall_plane (c : Call) (s : State) : (beginCall c s).plane = s.plane := rfl
@[simp] theorem beginCall_jbr (c : Call) (s : State) : (beginCall c s).jbr = s.jbr := rfl
@[simp] theorem beginCall_jbrLive (c : Call) (s : State) : (beginCall c s).jbrLive = s.jbrLive := rfl
@[simp] theorem beginCall_jc (c : Call) (s : State) : (beginCall c s).jc = s.jc := rfl
@[simp] theorem beginCall_point (c : Call) (s : State) : (beginCall c s).point = s.point := rfl
@[simp] theorem beginCall_running (c : Call) (s : State) : (beginCall c s).running = some c := rfl
@[simp] theorem beginCall_draws (c : Call) (s : State) : (beginCall c s).draws = s.draws := rfl
@[simp] theorem beginCall_host (c : Call) (s : State) : (beginCall c s).host = s.host := rfl
@[simp] theorem beginCall_hostRead (c : Call) (s : State) : (beginCall c s).hostRead = s.hostRead := rfl

@[simp] theorem endOk_cmd (s : State) : (endOk s).cmd = s.cmd := rfl
@[simp] theorem endOk_status (s : State) : (endOk s).status = statusOk := rfl
@[simp] theorem endOk_errkind (s : State) : (endOk s).errkind = 0#8 := rfl
@[simp] theorem endOk_diag (s : State) : (endOk s).diag = s.diag := rfl
@[simp] theorem endOk_arg0 (s : State) : (endOk s).arg0 = s.arg0 := rfl
@[simp] theorem endOk_arg1 (s : State) : (endOk s).arg1 = s.arg1 := rfl
@[simp] theorem endOk_inBase (s : State) : (endOk s).inBase = s.inBase := rfl
@[simp] theorem endOk_inLen (s : State) : (endOk s).inLen = s.inLen := rfl
@[simp] theorem endOk_resValue (s : State) : (endOk s).resValue = s.resValue := rfl
@[simp] theorem endOk_resWidth (s : State) : (endOk s).resWidth = s.resWidth := rfl
@[simp] theorem endOk_resHeight (s : State) : (endOk s).resHeight = s.resHeight := rfl
@[simp] theorem endOk_resChannels (s : State) : (endOk s).resChannels = s.resChannels := rfl
@[simp] theorem endOk_resLen (s : State) : (endOk s).resLen = s.resLen := rfl
@[simp] theorem endOk_input (s : State) : (endOk s).input = s.input := rfl
@[simp] theorem endOk_out (s : State) : (endOk s).out = s.out := rfl
@[simp] theorem endOk_idat (s : State) : (endOk s).idat = s.idat := rfl
@[simp] theorem endOk_raw (s : State) : (endOk s).raw = s.raw := rfl
@[simp] theorem endOk_win (s : State) : (endOk s).win = s.win := rfl
@[simp] theorem endOk_br (s : State) : (endOk s).br = s.br := rfl
@[simp] theorem endOk_brLive (s : State) : (endOk s).brLive = s.brLive := rfl
@[simp] theorem endOk_tFixLL (s : State) : (endOk s).tFixLL = s.tFixLL := rfl
@[simp] theorem endOk_tFixD (s : State) : (endOk s).tFixD = s.tFixD := rfl
@[simp] theorem endOk_tCl (s : State) : (endOk s).tCl = s.tCl := rfl
@[simp] theorem endOk_tLl (s : State) : (endOk s).tLl = s.tLl := rfl
@[simp] theorem endOk_tD (s : State) : (endOk s).tD = s.tD := rfl
@[simp] theorem endOk_tUser (s : State) : (endOk s).tUser = s.tUser := rfl
@[simp] theorem endOk_jdc (s : State) : (endOk s).jdc = s.jdc := rfl
@[simp] theorem endOk_jac (s : State) : (endOk s).jac = s.jac := rfl
@[simp] theorem endOk_huf (s : State) : (endOk s).huf = s.huf := rfl
@[simp] theorem endOk_inf (s : State) : (endOk s).inf = s.inf := rfl
@[simp] theorem endOk_zlb (s : State) : (endOk s).zlb = s.zlb := rfl
@[simp] theorem endOk_png (s : State) : (endOk s).png = s.png := rfl
@[simp] theorem endOk_crcT (s : State) : (endOk s).crcT = s.crcT := rfl
@[simp] theorem endOk_jdec (s : State) : (endOk s).jdec = s.jdec := rfl
@[simp] theorem endOk_qt (s : State) : (endOk s).qt = s.qt := rfl
@[simp] theorem endOk_qtPrec (s : State) : (endOk s).qtPrec = s.qtPrec := rfl
@[simp] theorem endOk_qtDef (s : State) : (endOk s).qtDef = s.qtDef := rfl
@[simp] theorem endOk_jhuf (s : State) : (endOk s).jhuf = s.jhuf := rfl
@[simp] theorem endOk_pred (s : State) : (endOk s).pred = s.pred := rfl
@[simp] theorem endOk_coef (s : State) : (endOk s).coef = s.coef := rfl
@[simp] theorem endOk_dq (s : State) : (endOk s).dq = s.dq := rfl
@[simp] theorem endOk_samp (s : State) : (endOk s).samp = s.samp := rfl
@[simp] theorem endOk_plane (s : State) : (endOk s).plane = s.plane := rfl
@[simp] theorem endOk_jbr (s : State) : (endOk s).jbr = s.jbr := rfl
@[simp] theorem endOk_jbrLive (s : State) : (endOk s).jbrLive = s.jbrLive := rfl
@[simp] theorem endOk_jc (s : State) : (endOk s).jc = s.jc := rfl
@[simp] theorem endOk_point (s : State) : (endOk s).point = .idle := rfl
@[simp] theorem endOk_running (s : State) : (endOk s).running = none := rfl
@[simp] theorem endOk_draws (s : State) : (endOk s).draws = s.draws := rfl
@[simp] theorem endOk_host (s : State) : (endOk s).host = s.host := rfl
@[simp] theorem endOk_hostRead (s : State) : (endOk s).hostRead = s.hostRead := rfl

@[simp] theorem State.afterOk_cmd (s : State) : (State.afterOk s).cmd = s.cmd := rfl
@[simp] theorem State.afterOk_status (s : State) : (State.afterOk s).status = statusOk := rfl
@[simp] theorem State.afterOk_errkind (s : State) : (State.afterOk s).errkind = 0#8 := rfl
@[simp] theorem State.afterOk_diag (s : State) : (State.afterOk s).diag = [] := rfl
@[simp] theorem State.afterOk_arg0 (s : State) : (State.afterOk s).arg0 = s.arg0 := rfl
@[simp] theorem State.afterOk_arg1 (s : State) : (State.afterOk s).arg1 = s.arg1 := rfl
@[simp] theorem State.afterOk_inBase (s : State) : (State.afterOk s).inBase = s.inBase := rfl
@[simp] theorem State.afterOk_inLen (s : State) : (State.afterOk s).inLen = s.inLen := rfl
@[simp] theorem State.afterOk_resValue (s : State) : (State.afterOk s).resValue = 0#32 := rfl
@[simp] theorem State.afterOk_resWidth (s : State) : (State.afterOk s).resWidth = 0#32 := rfl
@[simp] theorem State.afterOk_resHeight (s : State) : (State.afterOk s).resHeight = 0#32 := rfl
@[simp] theorem State.afterOk_resChannels (s : State) : (State.afterOk s).resChannels = 0#8 := rfl
@[simp] theorem State.afterOk_resLen (s : State) : (State.afterOk s).resLen = 0#32 := rfl
@[simp] theorem State.afterOk_input (s : State) : (State.afterOk s).input = s.input := rfl
@[simp] theorem State.afterOk_out (s : State) : (State.afterOk s).out = [] := rfl
@[simp] theorem State.afterOk_idat (s : State) : (State.afterOk s).idat = s.idat := rfl
@[simp] theorem State.afterOk_raw (s : State) : (State.afterOk s).raw = s.raw := rfl
@[simp] theorem State.afterOk_win (s : State) : (State.afterOk s).win = s.win := rfl
@[simp] theorem State.afterOk_br (s : State) : (State.afterOk s).br = s.br := rfl
@[simp] theorem State.afterOk_brLive (s : State) : (State.afterOk s).brLive = s.brLive := rfl
@[simp] theorem State.afterOk_tFixLL (s : State) : (State.afterOk s).tFixLL = s.tFixLL := rfl
@[simp] theorem State.afterOk_tFixD (s : State) : (State.afterOk s).tFixD = s.tFixD := rfl
@[simp] theorem State.afterOk_tCl (s : State) : (State.afterOk s).tCl = s.tCl := rfl
@[simp] theorem State.afterOk_tLl (s : State) : (State.afterOk s).tLl = s.tLl := rfl
@[simp] theorem State.afterOk_tD (s : State) : (State.afterOk s).tD = s.tD := rfl
@[simp] theorem State.afterOk_tUser (s : State) : (State.afterOk s).tUser = s.tUser := rfl
@[simp] theorem State.afterOk_jdc (s : State) : (State.afterOk s).jdc = s.jdc := rfl
@[simp] theorem State.afterOk_jac (s : State) : (State.afterOk s).jac = s.jac := rfl
@[simp] theorem State.afterOk_huf (s : State) : (State.afterOk s).huf = s.huf := rfl
@[simp] theorem State.afterOk_inf (s : State) : (State.afterOk s).inf = s.inf := rfl
@[simp] theorem State.afterOk_zlb (s : State) : (State.afterOk s).zlb = s.zlb := rfl
@[simp] theorem State.afterOk_png (s : State) : (State.afterOk s).png = s.png := rfl
@[simp] theorem State.afterOk_crcT (s : State) : (State.afterOk s).crcT = s.crcT := rfl
@[simp] theorem State.afterOk_jdec (s : State) : (State.afterOk s).jdec = s.jdec := rfl
@[simp] theorem State.afterOk_qt (s : State) : (State.afterOk s).qt = s.qt := rfl
@[simp] theorem State.afterOk_qtPrec (s : State) : (State.afterOk s).qtPrec = s.qtPrec := rfl
@[simp] theorem State.afterOk_qtDef (s : State) : (State.afterOk s).qtDef = s.qtDef := rfl
@[simp] theorem State.afterOk_jhuf (s : State) : (State.afterOk s).jhuf = s.jhuf := rfl
@[simp] theorem State.afterOk_pred (s : State) : (State.afterOk s).pred = s.pred := rfl
@[simp] theorem State.afterOk_coef (s : State) : (State.afterOk s).coef = s.coef := rfl
@[simp] theorem State.afterOk_dq (s : State) : (State.afterOk s).dq = s.dq := rfl
@[simp] theorem State.afterOk_samp (s : State) : (State.afterOk s).samp = s.samp := rfl
@[simp] theorem State.afterOk_plane (s : State) : (State.afterOk s).plane = s.plane := rfl
@[simp] theorem State.afterOk_jbr (s : State) : (State.afterOk s).jbr = s.jbr := rfl
@[simp] theorem State.afterOk_jbrLive (s : State) : (State.afterOk s).jbrLive = s.jbrLive := rfl
@[simp] theorem State.afterOk_jc (s : State) : (State.afterOk s).jc = s.jc := rfl
@[simp] theorem State.afterOk_point (s : State) : (State.afterOk s).point = .idle := rfl
@[simp] theorem State.afterOk_running (s : State) : (State.afterOk s).running = none := rfl
@[simp] theorem State.afterOk_draws (s : State) : (State.afterOk s).draws = s.draws := rfl
@[simp] theorem State.afterOk_host (s : State) : (State.afterOk s).host = s.host := rfl
@[simp] theorem State.afterOk_hostRead (s : State) : (State.afterOk s).hostRead = s.hostRead := rfl

@[simp] theorem bindBr_cmd (sp : Space) (b n : Nat) (s : State) : (bindBr sp b n s).cmd = s.cmd := rfl
@[simp] theorem bindBr_status (sp : Space) (b n : Nat) (s : State) : (bindBr sp b n s).status = s.status := rfl
@[simp] theorem bindBr_errkind (sp : Space) (b n : Nat) (s : State) : (bindBr sp b n s).errkind = s.errkind := rfl
@[simp] theorem bindBr_diag (sp : Space) (b n : Nat) (s : State) : (bindBr sp b n s).diag = s.diag := rfl
@[simp] theorem bindBr_arg0 (sp : Space) (b n : Nat) (s : State) : (bindBr sp b n s).arg0 = s.arg0 := rfl
@[simp] theorem bindBr_arg1 (sp : Space) (b n : Nat) (s : State) : (bindBr sp b n s).arg1 = s.arg1 := rfl
@[simp] theorem bindBr_inBase (sp : Space) (b n : Nat) (s : State) : (bindBr sp b n s).inBase = s.inBase := rfl
@[simp] theorem bindBr_inLen (sp : Space) (b n : Nat) (s : State) : (bindBr sp b n s).inLen = s.inLen := rfl
@[simp] theorem bindBr_resValue (sp : Space) (b n : Nat) (s : State) : (bindBr sp b n s).resValue = s.resValue := rfl
@[simp] theorem bindBr_resWidth (sp : Space) (b n : Nat) (s : State) : (bindBr sp b n s).resWidth = s.resWidth := rfl
@[simp] theorem bindBr_resHeight (sp : Space) (b n : Nat) (s : State) : (bindBr sp b n s).resHeight = s.resHeight := rfl
@[simp] theorem bindBr_resChannels (sp : Space) (b n : Nat) (s : State) : (bindBr sp b n s).resChannels = s.resChannels := rfl
@[simp] theorem bindBr_resLen (sp : Space) (b n : Nat) (s : State) : (bindBr sp b n s).resLen = s.resLen := rfl
@[simp] theorem bindBr_input (sp : Space) (b n : Nat) (s : State) : (bindBr sp b n s).input = s.input := rfl
@[simp] theorem bindBr_out (sp : Space) (b n : Nat) (s : State) : (bindBr sp b n s).out = s.out := rfl
@[simp] theorem bindBr_idat (sp : Space) (b n : Nat) (s : State) : (bindBr sp b n s).idat = s.idat := rfl
@[simp] theorem bindBr_raw (sp : Space) (b n : Nat) (s : State) : (bindBr sp b n s).raw = s.raw := rfl
@[simp] theorem bindBr_win (sp : Space) (b n : Nat) (s : State) : (bindBr sp b n s).win = s.win := rfl
@[simp] theorem bindBr_br (sp : Space) (b n : Nat) (s : State) : (bindBr sp b n s).br = { space := sp, base := b, len := n, bytePos := 0, bitPos := 0#3 } := rfl
@[simp] theorem bindBr_brLive (sp : Space) (b n : Nat) (s : State) : (bindBr sp b n s).brLive = true := rfl
@[simp] theorem bindBr_tFixLL (sp : Space) (b n : Nat) (s : State) : (bindBr sp b n s).tFixLL = s.tFixLL := rfl
@[simp] theorem bindBr_tFixD (sp : Space) (b n : Nat) (s : State) : (bindBr sp b n s).tFixD = s.tFixD := rfl
@[simp] theorem bindBr_tCl (sp : Space) (b n : Nat) (s : State) : (bindBr sp b n s).tCl = s.tCl := rfl
@[simp] theorem bindBr_tLl (sp : Space) (b n : Nat) (s : State) : (bindBr sp b n s).tLl = s.tLl := rfl
@[simp] theorem bindBr_tD (sp : Space) (b n : Nat) (s : State) : (bindBr sp b n s).tD = s.tD := rfl
@[simp] theorem bindBr_tUser (sp : Space) (b n : Nat) (s : State) : (bindBr sp b n s).tUser = s.tUser := rfl
@[simp] theorem bindBr_jdc (sp : Space) (b n : Nat) (s : State) : (bindBr sp b n s).jdc = s.jdc := rfl
@[simp] theorem bindBr_jac (sp : Space) (b n : Nat) (s : State) : (bindBr sp b n s).jac = s.jac := rfl
@[simp] theorem bindBr_huf (sp : Space) (b n : Nat) (s : State) : (bindBr sp b n s).huf = s.huf := rfl
@[simp] theorem bindBr_inf (sp : Space) (b n : Nat) (s : State) : (bindBr sp b n s).inf = s.inf := rfl
@[simp] theorem bindBr_zlb (sp : Space) (b n : Nat) (s : State) : (bindBr sp b n s).zlb = s.zlb := rfl
@[simp] theorem bindBr_png (sp : Space) (b n : Nat) (s : State) : (bindBr sp b n s).png = s.png := rfl
@[simp] theorem bindBr_crcT (sp : Space) (b n : Nat) (s : State) : (bindBr sp b n s).crcT = s.crcT := rfl
@[simp] theorem bindBr_jdec (sp : Space) (b n : Nat) (s : State) : (bindBr sp b n s).jdec = s.jdec := rfl
@[simp] theorem bindBr_qt (sp : Space) (b n : Nat) (s : State) : (bindBr sp b n s).qt = s.qt := rfl
@[simp] theorem bindBr_qtPrec (sp : Space) (b n : Nat) (s : State) : (bindBr sp b n s).qtPrec = s.qtPrec := rfl
@[simp] theorem bindBr_qtDef (sp : Space) (b n : Nat) (s : State) : (bindBr sp b n s).qtDef = s.qtDef := rfl
@[simp] theorem bindBr_jhuf (sp : Space) (b n : Nat) (s : State) : (bindBr sp b n s).jhuf = s.jhuf := rfl
@[simp] theorem bindBr_pred (sp : Space) (b n : Nat) (s : State) : (bindBr sp b n s).pred = s.pred := rfl
@[simp] theorem bindBr_coef (sp : Space) (b n : Nat) (s : State) : (bindBr sp b n s).coef = s.coef := rfl
@[simp] theorem bindBr_dq (sp : Space) (b n : Nat) (s : State) : (bindBr sp b n s).dq = s.dq := rfl
@[simp] theorem bindBr_samp (sp : Space) (b n : Nat) (s : State) : (bindBr sp b n s).samp = s.samp := rfl
@[simp] theorem bindBr_plane (sp : Space) (b n : Nat) (s : State) : (bindBr sp b n s).plane = s.plane := rfl
@[simp] theorem bindBr_jbr (sp : Space) (b n : Nat) (s : State) : (bindBr sp b n s).jbr = s.jbr := rfl
@[simp] theorem bindBr_jbrLive (sp : Space) (b n : Nat) (s : State) : (bindBr sp b n s).jbrLive = s.jbrLive := rfl
@[simp] theorem bindBr_jc (sp : Space) (b n : Nat) (s : State) : (bindBr sp b n s).jc = s.jc := rfl
@[simp] theorem bindBr_point (sp : Space) (b n : Nat) (s : State) : (bindBr sp b n s).point = s.point := rfl
@[simp] theorem bindBr_running (sp : Space) (b n : Nat) (s : State) : (bindBr sp b n s).running = s.running := rfl
@[simp] theorem bindBr_draws (sp : Space) (b n : Nat) (s : State) : (bindBr sp b n s).draws = s.draws := rfl
@[simp] theorem bindBr_host (sp : Space) (b n : Nat) (s : State) : (bindBr sp b n s).host = s.host := rfl
@[simp] theorem bindBr_hostRead (sp : Space) (b n : Nat) (s : State) : (bindBr sp b n s).hostRead = s.hostRead := rfl

@[simp] theorem beginStream_cmd (c : Call) (s : State) : (beginStream c s).cmd = s.cmd := rfl
@[simp] theorem beginStream_status (c : Call) (s : State) : (beginStream c s).status = statusBusy := rfl
@[simp] theorem beginStream_errkind (c : Call) (s : State) : (beginStream c s).errkind = 0#8 := rfl
@[simp] theorem beginStream_diag (c : Call) (s : State) : (beginStream c s).diag = [] := rfl
@[simp] theorem beginStream_arg0 (c : Call) (s : State) : (beginStream c s).arg0 = s.arg0 := rfl
@[simp] theorem beginStream_arg1 (c : Call) (s : State) : (beginStream c s).arg1 = s.arg1 := rfl
@[simp] theorem beginStream_inBase (c : Call) (s : State) : (beginStream c s).inBase = s.inBase := rfl
@[simp] theorem beginStream_inLen (c : Call) (s : State) : (beginStream c s).inLen = s.inLen := rfl
@[simp] theorem beginStream_resValue (c : Call) (s : State) : (beginStream c s).resValue = 0#32 := rfl
@[simp] theorem beginStream_resWidth (c : Call) (s : State) : (beginStream c s).resWidth = 0#32 := rfl
@[simp] theorem beginStream_resHeight (c : Call) (s : State) : (beginStream c s).resHeight = 0#32 := rfl
@[simp] theorem beginStream_resChannels (c : Call) (s : State) : (beginStream c s).resChannels = 0#8 := rfl
@[simp] theorem beginStream_resLen (c : Call) (s : State) : (beginStream c s).resLen = 0#32 := rfl
@[simp] theorem beginStream_input (c : Call) (s : State) : (beginStream c s).input = s.input := rfl
@[simp] theorem beginStream_out (c : Call) (s : State) : (beginStream c s).out = [] := rfl
@[simp] theorem beginStream_idat (c : Call) (s : State) : (beginStream c s).idat = s.idat := rfl
@[simp] theorem beginStream_raw (c : Call) (s : State) : (beginStream c s).raw = s.raw := rfl
@[simp] theorem beginStream_win (c : Call) (s : State) : (beginStream c s).win = s.win := rfl
@[simp] theorem beginStream_br (c : Call) (s : State) : (beginStream c s).br = { space := .input, base := 0, len := inLength s, bytePos := 0, bitPos := 0#3 } := rfl
@[simp] theorem beginStream_brLive (c : Call) (s : State) : (beginStream c s).brLive = true := rfl
@[simp] theorem beginStream_tFixLL (c : Call) (s : State) : (beginStream c s).tFixLL = s.tFixLL := rfl
@[simp] theorem beginStream_tFixD (c : Call) (s : State) : (beginStream c s).tFixD = s.tFixD := rfl
@[simp] theorem beginStream_tCl (c : Call) (s : State) : (beginStream c s).tCl = s.tCl.invalidate := rfl
@[simp] theorem beginStream_tLl (c : Call) (s : State) : (beginStream c s).tLl = s.tLl.invalidate := rfl
@[simp] theorem beginStream_tD (c : Call) (s : State) : (beginStream c s).tD = s.tD.invalidate := rfl
@[simp] theorem beginStream_tUser (c : Call) (s : State) : (beginStream c s).tUser = s.tUser := rfl
@[simp] theorem beginStream_jdc (c : Call) (s : State) : (beginStream c s).jdc = s.jdc := rfl
@[simp] theorem beginStream_jac (c : Call) (s : State) : (beginStream c s).jac = s.jac := rfl
@[simp] theorem beginStream_huf (c : Call) (s : State) : (beginStream c s).huf = s.huf := rfl
@[simp] theorem beginStream_inf (c : Call) (s : State) : (beginStream c s).inf = .init := rfl
@[simp] theorem beginStream_zlb (c : Call) (s : State) : (beginStream c s).zlb = .init := rfl
@[simp] theorem beginStream_png (c : Call) (s : State) : (beginStream c s).png = s.png := rfl
@[simp] theorem beginStream_crcT (c : Call) (s : State) : (beginStream c s).crcT = s.crcT := rfl
@[simp] theorem beginStream_jdec (c : Call) (s : State) : (beginStream c s).jdec = s.jdec := rfl
@[simp] theorem beginStream_qt (c : Call) (s : State) : (beginStream c s).qt = s.qt := rfl
@[simp] theorem beginStream_qtPrec (c : Call) (s : State) : (beginStream c s).qtPrec = s.qtPrec := rfl
@[simp] theorem beginStream_qtDef (c : Call) (s : State) : (beginStream c s).qtDef = s.qtDef := rfl
@[simp] theorem beginStream_jhuf (c : Call) (s : State) : (beginStream c s).jhuf = s.jhuf := rfl
@[simp] theorem beginStream_pred (c : Call) (s : State) : (beginStream c s).pred = s.pred := rfl
@[simp] theorem beginStream_coef (c : Call) (s : State) : (beginStream c s).coef = s.coef := rfl
@[simp] theorem beginStream_dq (c : Call) (s : State) : (beginStream c s).dq = s.dq := rfl
@[simp] theorem beginStream_samp (c : Call) (s : State) : (beginStream c s).samp = s.samp := rfl
@[simp] theorem beginStream_plane (c : Call) (s : State) : (beginStream c s).plane = s.plane := rfl
@[simp] theorem beginStream_jbr (c : Call) (s : State) : (beginStream c s).jbr = s.jbr := rfl
@[simp] theorem beginStream_jbrLive (c : Call) (s : State) : (beginStream c s).jbrLive = s.jbrLive := rfl
@[simp] theorem beginStream_jc (c : Call) (s : State) : (beginStream c s).jc = s.jc := rfl
@[simp] theorem beginStream_point (c : Call) (s : State) : (beginStream c s).point = s.point := rfl
@[simp] theorem beginStream_running (c : Call) (s : State) : (beginStream c s).running = some c := rfl
@[simp] theorem beginStream_draws (c : Call) (s : State) : (beginStream c s).draws = s.draws := rfl
@[simp] theorem beginStream_host (c : Call) (s : State) : (beginStream c s).host = s.host := rfl
@[simp] theorem beginStream_hostRead (c : Call) (s : State) : (beginStream c s).hostRead = s.hostRead := rfl

@[simp] theorem brSeek_cmd (p : Nat) (s : State) : (brSeek p s).cmd = s.cmd := rfl
@[simp] theorem brSeek_status (p : Nat) (s : State) : (brSeek p s).status = s.status := rfl
@[simp] theorem brSeek_errkind (p : Nat) (s : State) : (brSeek p s).errkind = s.errkind := rfl
@[simp] theorem brSeek_diag (p : Nat) (s : State) : (brSeek p s).diag = s.diag := rfl
@[simp] theorem brSeek_arg0 (p : Nat) (s : State) : (brSeek p s).arg0 = s.arg0 := rfl
@[simp] theorem brSeek_arg1 (p : Nat) (s : State) : (brSeek p s).arg1 = s.arg1 := rfl
@[simp] theorem brSeek_inBase (p : Nat) (s : State) : (brSeek p s).inBase = s.inBase := rfl
@[simp] theorem brSeek_inLen (p : Nat) (s : State) : (brSeek p s).inLen = s.inLen := rfl
@[simp] theorem brSeek_resValue (p : Nat) (s : State) : (brSeek p s).resValue = s.resValue := rfl
@[simp] theorem brSeek_resWidth (p : Nat) (s : State) : (brSeek p s).resWidth = s.resWidth := rfl
@[simp] theorem brSeek_resHeight (p : Nat) (s : State) : (brSeek p s).resHeight = s.resHeight := rfl
@[simp] theorem brSeek_resChannels (p : Nat) (s : State) : (brSeek p s).resChannels = s.resChannels := rfl
@[simp] theorem brSeek_resLen (p : Nat) (s : State) : (brSeek p s).resLen = s.resLen := rfl
@[simp] theorem brSeek_input (p : Nat) (s : State) : (brSeek p s).input = s.input := rfl
@[simp] theorem brSeek_out (p : Nat) (s : State) : (brSeek p s).out = s.out := rfl
@[simp] theorem brSeek_idat (p : Nat) (s : State) : (brSeek p s).idat = s.idat := rfl
@[simp] theorem brSeek_raw (p : Nat) (s : State) : (brSeek p s).raw = s.raw := rfl
@[simp] theorem brSeek_win (p : Nat) (s : State) : (brSeek p s).win = s.win := rfl
@[simp] theorem brSeek_br (p : Nat) (s : State) : (brSeek p s).br = { s.br with bytePos := p / 8, bitPos := BitVec.ofNat 3 p } := rfl
@[simp] theorem brSeek_brLive (p : Nat) (s : State) : (brSeek p s).brLive = s.brLive := rfl
@[simp] theorem brSeek_tFixLL (p : Nat) (s : State) : (brSeek p s).tFixLL = s.tFixLL := rfl
@[simp] theorem brSeek_tFixD (p : Nat) (s : State) : (brSeek p s).tFixD = s.tFixD := rfl
@[simp] theorem brSeek_tCl (p : Nat) (s : State) : (brSeek p s).tCl = s.tCl := rfl
@[simp] theorem brSeek_tLl (p : Nat) (s : State) : (brSeek p s).tLl = s.tLl := rfl
@[simp] theorem brSeek_tD (p : Nat) (s : State) : (brSeek p s).tD = s.tD := rfl
@[simp] theorem brSeek_tUser (p : Nat) (s : State) : (brSeek p s).tUser = s.tUser := rfl
@[simp] theorem brSeek_jdc (p : Nat) (s : State) : (brSeek p s).jdc = s.jdc := rfl
@[simp] theorem brSeek_jac (p : Nat) (s : State) : (brSeek p s).jac = s.jac := rfl
@[simp] theorem brSeek_huf (p : Nat) (s : State) : (brSeek p s).huf = s.huf := rfl
@[simp] theorem brSeek_inf (p : Nat) (s : State) : (brSeek p s).inf = s.inf := rfl
@[simp] theorem brSeek_zlb (p : Nat) (s : State) : (brSeek p s).zlb = s.zlb := rfl
@[simp] theorem brSeek_png (p : Nat) (s : State) : (brSeek p s).png = s.png := rfl
@[simp] theorem brSeek_crcT (p : Nat) (s : State) : (brSeek p s).crcT = s.crcT := rfl
@[simp] theorem brSeek_jdec (p : Nat) (s : State) : (brSeek p s).jdec = s.jdec := rfl
@[simp] theorem brSeek_qt (p : Nat) (s : State) : (brSeek p s).qt = s.qt := rfl
@[simp] theorem brSeek_qtPrec (p : Nat) (s : State) : (brSeek p s).qtPrec = s.qtPrec := rfl
@[simp] theorem brSeek_qtDef (p : Nat) (s : State) : (brSeek p s).qtDef = s.qtDef := rfl
@[simp] theorem brSeek_jhuf (p : Nat) (s : State) : (brSeek p s).jhuf = s.jhuf := rfl
@[simp] theorem brSeek_pred (p : Nat) (s : State) : (brSeek p s).pred = s.pred := rfl
@[simp] theorem brSeek_coef (p : Nat) (s : State) : (brSeek p s).coef = s.coef := rfl
@[simp] theorem brSeek_dq (p : Nat) (s : State) : (brSeek p s).dq = s.dq := rfl
@[simp] theorem brSeek_samp (p : Nat) (s : State) : (brSeek p s).samp = s.samp := rfl
@[simp] theorem brSeek_plane (p : Nat) (s : State) : (brSeek p s).plane = s.plane := rfl
@[simp] theorem brSeek_jbr (p : Nat) (s : State) : (brSeek p s).jbr = s.jbr := rfl
@[simp] theorem brSeek_jbrLive (p : Nat) (s : State) : (brSeek p s).jbrLive = s.jbrLive := rfl
@[simp] theorem brSeek_jc (p : Nat) (s : State) : (brSeek p s).jc = s.jc := rfl
@[simp] theorem brSeek_point (p : Nat) (s : State) : (brSeek p s).point = s.point := rfl
@[simp] theorem brSeek_running (p : Nat) (s : State) : (brSeek p s).running = s.running := rfl
@[simp] theorem brSeek_draws (p : Nat) (s : State) : (brSeek p s).draws = s.draws := rfl
@[simp] theorem brSeek_host (p : Nat) (s : State) : (brSeek p s).host = s.host := rfl
@[simp] theorem brSeek_hostRead (p : Nat) (s : State) : (brSeek p s).hostRead = s.hostRead := rfl

@[simp] theorem emit_cmd (v : Byte) (s : State) : (emit v s).cmd = s.cmd := rfl
@[simp] theorem emit_status (v : Byte) (s : State) : (emit v s).status = s.status := rfl
@[simp] theorem emit_errkind (v : Byte) (s : State) : (emit v s).errkind = s.errkind := rfl
@[simp] theorem emit_diag (v : Byte) (s : State) : (emit v s).diag = s.diag := rfl
@[simp] theorem emit_arg0 (v : Byte) (s : State) : (emit v s).arg0 = s.arg0 := rfl
@[simp] theorem emit_arg1 (v : Byte) (s : State) : (emit v s).arg1 = s.arg1 := rfl
@[simp] theorem emit_inBase (v : Byte) (s : State) : (emit v s).inBase = s.inBase := rfl
@[simp] theorem emit_inLen (v : Byte) (s : State) : (emit v s).inLen = s.inLen := rfl
@[simp] theorem emit_resValue (v : Byte) (s : State) : (emit v s).resValue = s.resValue := rfl
@[simp] theorem emit_resWidth (v : Byte) (s : State) : (emit v s).resWidth = s.resWidth := rfl
@[simp] theorem emit_resHeight (v : Byte) (s : State) : (emit v s).resHeight = s.resHeight := rfl
@[simp] theorem emit_resChannels (v : Byte) (s : State) : (emit v s).resChannels = s.resChannels := rfl
@[simp] theorem emit_resLen (v : Byte) (s : State) : (emit v s).resLen = s.resLen := rfl
@[simp] theorem emit_input (v : Byte) (s : State) : (emit v s).input = s.input := rfl
@[simp] theorem emit_out (v : Byte) (s : State) : (emit v s).out = s.out ++ [v] := rfl
@[simp] theorem emit_idat (v : Byte) (s : State) : (emit v s).idat = s.idat := rfl
@[simp] theorem emit_raw (v : Byte) (s : State) : (emit v s).raw = s.raw := rfl
@[simp] theorem emit_win (v : Byte) (s : State) : (emit v s).win = Memory.write s.win s.inf.wpos v := rfl
@[simp] theorem emit_br (v : Byte) (s : State) : (emit v s).br = s.br := rfl
@[simp] theorem emit_brLive (v : Byte) (s : State) : (emit v s).brLive = s.brLive := rfl
@[simp] theorem emit_tFixLL (v : Byte) (s : State) : (emit v s).tFixLL = s.tFixLL := rfl
@[simp] theorem emit_tFixD (v : Byte) (s : State) : (emit v s).tFixD = s.tFixD := rfl
@[simp] theorem emit_tCl (v : Byte) (s : State) : (emit v s).tCl = s.tCl := rfl
@[simp] theorem emit_tLl (v : Byte) (s : State) : (emit v s).tLl = s.tLl := rfl
@[simp] theorem emit_tD (v : Byte) (s : State) : (emit v s).tD = s.tD := rfl
@[simp] theorem emit_tUser (v : Byte) (s : State) : (emit v s).tUser = s.tUser := rfl
@[simp] theorem emit_jdc (v : Byte) (s : State) : (emit v s).jdc = s.jdc := rfl
@[simp] theorem emit_jac (v : Byte) (s : State) : (emit v s).jac = s.jac := rfl
@[simp] theorem emit_huf (v : Byte) (s : State) : (emit v s).huf = s.huf := rfl
@[simp] theorem emit_inf (v : Byte) (s : State) : (emit v s).inf = { s.inf with wpos := (s.inf.wpos + 1) % Config.windowSize, produced := s.inf.produced + 1 } := rfl
@[simp] theorem emit_zlb (v : Byte) (s : State) : (emit v s).zlb = s.zlb := rfl
@[simp] theorem emit_png (v : Byte) (s : State) : (emit v s).png = s.png := rfl
@[simp] theorem emit_crcT (v : Byte) (s : State) : (emit v s).crcT = s.crcT := rfl
@[simp] theorem emit_jdec (v : Byte) (s : State) : (emit v s).jdec = s.jdec := rfl
@[simp] theorem emit_qt (v : Byte) (s : State) : (emit v s).qt = s.qt := rfl
@[simp] theorem emit_qtPrec (v : Byte) (s : State) : (emit v s).qtPrec = s.qtPrec := rfl
@[simp] theorem emit_qtDef (v : Byte) (s : State) : (emit v s).qtDef = s.qtDef := rfl
@[simp] theorem emit_jhuf (v : Byte) (s : State) : (emit v s).jhuf = s.jhuf := rfl
@[simp] theorem emit_pred (v : Byte) (s : State) : (emit v s).pred = s.pred := rfl
@[simp] theorem emit_coef (v : Byte) (s : State) : (emit v s).coef = s.coef := rfl
@[simp] theorem emit_dq (v : Byte) (s : State) : (emit v s).dq = s.dq := rfl
@[simp] theorem emit_samp (v : Byte) (s : State) : (emit v s).samp = s.samp := rfl
@[simp] theorem emit_plane (v : Byte) (s : State) : (emit v s).plane = s.plane := rfl
@[simp] theorem emit_jbr (v : Byte) (s : State) : (emit v s).jbr = s.jbr := rfl
@[simp] theorem emit_jbrLive (v : Byte) (s : State) : (emit v s).jbrLive = s.jbrLive := rfl
@[simp] theorem emit_jc (v : Byte) (s : State) : (emit v s).jc = s.jc := rfl
@[simp] theorem emit_point (v : Byte) (s : State) : (emit v s).point = s.point := rfl
@[simp] theorem emit_running (v : Byte) (s : State) : (emit v s).running = s.running := rfl
@[simp] theorem emit_draws (v : Byte) (s : State) : (emit v s).draws = s.draws := rfl
@[simp] theorem emit_host (v : Byte) (s : State) : (emit v s).host = s.host := rfl
@[simp] theorem emit_hostRead (v : Byte) (s : State) : (emit v s).hostRead = s.hostRead := rfl

@[simp] theorem releaseHuf_cmd (s : State) : (releaseHuf s).cmd = s.cmd := rfl
@[simp] theorem releaseHuf_status (s : State) : (releaseHuf s).status = s.status := rfl
@[simp] theorem releaseHuf_errkind (s : State) : (releaseHuf s).errkind = s.errkind := rfl
@[simp] theorem releaseHuf_diag (s : State) : (releaseHuf s).diag = s.diag := rfl
@[simp] theorem releaseHuf_arg0 (s : State) : (releaseHuf s).arg0 = s.arg0 := rfl
@[simp] theorem releaseHuf_arg1 (s : State) : (releaseHuf s).arg1 = s.arg1 := rfl
@[simp] theorem releaseHuf_inBase (s : State) : (releaseHuf s).inBase = s.inBase := rfl
@[simp] theorem releaseHuf_inLen (s : State) : (releaseHuf s).inLen = s.inLen := rfl
@[simp] theorem releaseHuf_resValue (s : State) : (releaseHuf s).resValue = s.resValue := rfl
@[simp] theorem releaseHuf_resWidth (s : State) : (releaseHuf s).resWidth = s.resWidth := rfl
@[simp] theorem releaseHuf_resHeight (s : State) : (releaseHuf s).resHeight = s.resHeight := rfl
@[simp] theorem releaseHuf_resChannels (s : State) : (releaseHuf s).resChannels = s.resChannels := rfl
@[simp] theorem releaseHuf_resLen (s : State) : (releaseHuf s).resLen = s.resLen := rfl
@[simp] theorem releaseHuf_input (s : State) : (releaseHuf s).input = s.input := rfl
@[simp] theorem releaseHuf_out (s : State) : (releaseHuf s).out = s.out := rfl
@[simp] theorem releaseHuf_idat (s : State) : (releaseHuf s).idat = s.idat := rfl
@[simp] theorem releaseHuf_raw (s : State) : (releaseHuf s).raw = s.raw := rfl
@[simp] theorem releaseHuf_win (s : State) : (releaseHuf s).win = s.win := rfl
@[simp] theorem releaseHuf_br (s : State) : (releaseHuf s).br = s.br := rfl
@[simp] theorem releaseHuf_brLive (s : State) : (releaseHuf s).brLive = s.brLive := rfl
@[simp] theorem releaseHuf_tFixLL (s : State) : (releaseHuf s).tFixLL = s.tFixLL := rfl
@[simp] theorem releaseHuf_tFixD (s : State) : (releaseHuf s).tFixD = s.tFixD := rfl
@[simp] theorem releaseHuf_tCl (s : State) : (releaseHuf s).tCl = s.tCl := rfl
@[simp] theorem releaseHuf_tLl (s : State) : (releaseHuf s).tLl = s.tLl := rfl
@[simp] theorem releaseHuf_tD (s : State) : (releaseHuf s).tD = s.tD := rfl
@[simp] theorem releaseHuf_tUser (s : State) : (releaseHuf s).tUser = s.tUser := rfl
@[simp] theorem releaseHuf_jdc (s : State) : (releaseHuf s).jdc = s.jdc := rfl
@[simp] theorem releaseHuf_jac (s : State) : (releaseHuf s).jac = s.jac := rfl
@[simp] theorem releaseHuf_huf (s : State) : (releaseHuf s).huf = Config.huf s.draws := rfl
@[simp] theorem releaseHuf_inf (s : State) : (releaseHuf s).inf = s.inf := rfl
@[simp] theorem releaseHuf_zlb (s : State) : (releaseHuf s).zlb = s.zlb := rfl
@[simp] theorem releaseHuf_png (s : State) : (releaseHuf s).png = s.png := rfl
@[simp] theorem releaseHuf_crcT (s : State) : (releaseHuf s).crcT = s.crcT := rfl
@[simp] theorem releaseHuf_jdec (s : State) : (releaseHuf s).jdec = s.jdec := rfl
@[simp] theorem releaseHuf_qt (s : State) : (releaseHuf s).qt = s.qt := rfl
@[simp] theorem releaseHuf_qtPrec (s : State) : (releaseHuf s).qtPrec = s.qtPrec := rfl
@[simp] theorem releaseHuf_qtDef (s : State) : (releaseHuf s).qtDef = s.qtDef := rfl
@[simp] theorem releaseHuf_jhuf (s : State) : (releaseHuf s).jhuf = s.jhuf := rfl
@[simp] theorem releaseHuf_pred (s : State) : (releaseHuf s).pred = s.pred := rfl
@[simp] theorem releaseHuf_coef (s : State) : (releaseHuf s).coef = s.coef := rfl
@[simp] theorem releaseHuf_dq (s : State) : (releaseHuf s).dq = s.dq := rfl
@[simp] theorem releaseHuf_samp (s : State) : (releaseHuf s).samp = s.samp := rfl
@[simp] theorem releaseHuf_plane (s : State) : (releaseHuf s).plane = s.plane := rfl
@[simp] theorem releaseHuf_jbr (s : State) : (releaseHuf s).jbr = s.jbr := rfl
@[simp] theorem releaseHuf_jbrLive (s : State) : (releaseHuf s).jbrLive = s.jbrLive := rfl
@[simp] theorem releaseHuf_jc (s : State) : (releaseHuf s).jc = s.jc := rfl
@[simp] theorem releaseHuf_point (s : State) : (releaseHuf s).point = s.point := rfl
@[simp] theorem releaseHuf_running (s : State) : (releaseHuf s).running = s.running := rfl
@[simp] theorem releaseHuf_draws (s : State) : (releaseHuf s).draws = s.draws + 1 := rfl
@[simp] theorem releaseHuf_host (s : State) : (releaseHuf s).host = s.host := rfl
@[simp] theorem releaseHuf_hostRead (s : State) : (releaseHuf s).hostRead = s.hostRead := rfl

@[simp] theorem releaseJhuf_cmd (s : State) : (releaseJhuf s).cmd = s.cmd := rfl
@[simp] theorem releaseJhuf_status (s : State) : (releaseJhuf s).status = s.status := rfl
@[simp] theorem releaseJhuf_errkind (s : State) : (releaseJhuf s).errkind = s.errkind := rfl
@[simp] theorem releaseJhuf_diag (s : State) : (releaseJhuf s).diag = s.diag := rfl
@[simp] theorem releaseJhuf_arg0 (s : State) : (releaseJhuf s).arg0 = s.arg0 := rfl
@[simp] theorem releaseJhuf_arg1 (s : State) : (releaseJhuf s).arg1 = s.arg1 := rfl
@[simp] theorem releaseJhuf_inBase (s : State) : (releaseJhuf s).inBase = s.inBase := rfl
@[simp] theorem releaseJhuf_inLen (s : State) : (releaseJhuf s).inLen = s.inLen := rfl
@[simp] theorem releaseJhuf_resValue (s : State) : (releaseJhuf s).resValue = s.resValue := rfl
@[simp] theorem releaseJhuf_resWidth (s : State) : (releaseJhuf s).resWidth = s.resWidth := rfl
@[simp] theorem releaseJhuf_resHeight (s : State) : (releaseJhuf s).resHeight = s.resHeight := rfl
@[simp] theorem releaseJhuf_resChannels (s : State) : (releaseJhuf s).resChannels = s.resChannels := rfl
@[simp] theorem releaseJhuf_resLen (s : State) : (releaseJhuf s).resLen = s.resLen := rfl
@[simp] theorem releaseJhuf_input (s : State) : (releaseJhuf s).input = s.input := rfl
@[simp] theorem releaseJhuf_out (s : State) : (releaseJhuf s).out = s.out := rfl
@[simp] theorem releaseJhuf_idat (s : State) : (releaseJhuf s).idat = s.idat := rfl
@[simp] theorem releaseJhuf_raw (s : State) : (releaseJhuf s).raw = s.raw := rfl
@[simp] theorem releaseJhuf_win (s : State) : (releaseJhuf s).win = s.win := rfl
@[simp] theorem releaseJhuf_br (s : State) : (releaseJhuf s).br = s.br := rfl
@[simp] theorem releaseJhuf_brLive (s : State) : (releaseJhuf s).brLive = s.brLive := rfl
@[simp] theorem releaseJhuf_tFixLL (s : State) : (releaseJhuf s).tFixLL = s.tFixLL := rfl
@[simp] theorem releaseJhuf_tFixD (s : State) : (releaseJhuf s).tFixD = s.tFixD := rfl
@[simp] theorem releaseJhuf_tCl (s : State) : (releaseJhuf s).tCl = s.tCl := rfl
@[simp] theorem releaseJhuf_tLl (s : State) : (releaseJhuf s).tLl = s.tLl := rfl
@[simp] theorem releaseJhuf_tD (s : State) : (releaseJhuf s).tD = s.tD := rfl
@[simp] theorem releaseJhuf_tUser (s : State) : (releaseJhuf s).tUser = s.tUser := rfl
@[simp] theorem releaseJhuf_jdc (s : State) : (releaseJhuf s).jdc = s.jdc := rfl
@[simp] theorem releaseJhuf_jac (s : State) : (releaseJhuf s).jac = s.jac := rfl
@[simp] theorem releaseJhuf_huf (s : State) : (releaseJhuf s).huf = s.huf := rfl
@[simp] theorem releaseJhuf_inf (s : State) : (releaseJhuf s).inf = s.inf := rfl
@[simp] theorem releaseJhuf_zlb (s : State) : (releaseJhuf s).zlb = s.zlb := rfl
@[simp] theorem releaseJhuf_png (s : State) : (releaseJhuf s).png = s.png := rfl
@[simp] theorem releaseJhuf_crcT (s : State) : (releaseJhuf s).crcT = s.crcT := rfl
@[simp] theorem releaseJhuf_jdec (s : State) : (releaseJhuf s).jdec = s.jdec := rfl
@[simp] theorem releaseJhuf_qt (s : State) : (releaseJhuf s).qt = s.qt := rfl
@[simp] theorem releaseJhuf_qtPrec (s : State) : (releaseJhuf s).qtPrec = s.qtPrec := rfl
@[simp] theorem releaseJhuf_qtDef (s : State) : (releaseJhuf s).qtDef = s.qtDef := rfl
@[simp] theorem releaseJhuf_jhuf (s : State) : (releaseJhuf s).jhuf = Config.jhuf s.draws := rfl
@[simp] theorem releaseJhuf_pred (s : State) : (releaseJhuf s).pred = s.pred := rfl
@[simp] theorem releaseJhuf_coef (s : State) : (releaseJhuf s).coef = s.coef := rfl
@[simp] theorem releaseJhuf_dq (s : State) : (releaseJhuf s).dq = s.dq := rfl
@[simp] theorem releaseJhuf_samp (s : State) : (releaseJhuf s).samp = s.samp := rfl
@[simp] theorem releaseJhuf_plane (s : State) : (releaseJhuf s).plane = s.plane := rfl
@[simp] theorem releaseJhuf_jbr (s : State) : (releaseJhuf s).jbr = s.jbr := rfl
@[simp] theorem releaseJhuf_jbrLive (s : State) : (releaseJhuf s).jbrLive = s.jbrLive := rfl
@[simp] theorem releaseJhuf_jc (s : State) : (releaseJhuf s).jc = s.jc := rfl
@[simp] theorem releaseJhuf_point (s : State) : (releaseJhuf s).point = s.point := rfl
@[simp] theorem releaseJhuf_running (s : State) : (releaseJhuf s).running = s.running := rfl
@[simp] theorem releaseJhuf_draws (s : State) : (releaseJhuf s).draws = s.draws + 1 := rfl
@[simp] theorem releaseJhuf_host (s : State) : (releaseJhuf s).host = s.host := rfl
@[simp] theorem releaseJhuf_hostRead (s : State) : (releaseJhuf s).hostRead = s.hostRead := rfl

@[simp] theorem sumAdler_cmd (s : State) : (sumAdler s).cmd = s.cmd := rfl
@[simp] theorem sumAdler_status (s : State) : (sumAdler s).status = s.status := rfl
@[simp] theorem sumAdler_errkind (s : State) : (sumAdler s).errkind = s.errkind := rfl
@[simp] theorem sumAdler_diag (s : State) : (sumAdler s).diag = s.diag := rfl
@[simp] theorem sumAdler_arg0 (s : State) : (sumAdler s).arg0 = s.arg0 := rfl
@[simp] theorem sumAdler_arg1 (s : State) : (sumAdler s).arg1 = s.arg1 := rfl
@[simp] theorem sumAdler_inBase (s : State) : (sumAdler s).inBase = s.inBase := rfl
@[simp] theorem sumAdler_inLen (s : State) : (sumAdler s).inLen = s.inLen := rfl
@[simp] theorem sumAdler_resValue (s : State) : (sumAdler s).resValue = s.resValue := rfl
@[simp] theorem sumAdler_resWidth (s : State) : (sumAdler s).resWidth = s.resWidth := rfl
@[simp] theorem sumAdler_resHeight (s : State) : (sumAdler s).resHeight = s.resHeight := rfl
@[simp] theorem sumAdler_resChannels (s : State) : (sumAdler s).resChannels = s.resChannels := rfl
@[simp] theorem sumAdler_resLen (s : State) : (sumAdler s).resLen = s.resLen := rfl
@[simp] theorem sumAdler_input (s : State) : (sumAdler s).input = s.input := rfl
@[simp] theorem sumAdler_out (s : State) : (sumAdler s).out = s.out := rfl
@[simp] theorem sumAdler_idat (s : State) : (sumAdler s).idat = s.idat := rfl
@[simp] theorem sumAdler_raw (s : State) : (sumAdler s).raw = s.raw := rfl
@[simp] theorem sumAdler_win (s : State) : (sumAdler s).win = s.win := rfl
@[simp] theorem sumAdler_br (s : State) : (sumAdler s).br = s.br := rfl
@[simp] theorem sumAdler_brLive (s : State) : (sumAdler s).brLive = s.brLive := rfl
@[simp] theorem sumAdler_tFixLL (s : State) : (sumAdler s).tFixLL = s.tFixLL := rfl
@[simp] theorem sumAdler_tFixD (s : State) : (sumAdler s).tFixD = s.tFixD := rfl
@[simp] theorem sumAdler_tCl (s : State) : (sumAdler s).tCl = s.tCl := rfl
@[simp] theorem sumAdler_tLl (s : State) : (sumAdler s).tLl = s.tLl := rfl
@[simp] theorem sumAdler_tD (s : State) : (sumAdler s).tD = s.tD := rfl
@[simp] theorem sumAdler_tUser (s : State) : (sumAdler s).tUser = s.tUser := rfl
@[simp] theorem sumAdler_jdc (s : State) : (sumAdler s).jdc = s.jdc := rfl
@[simp] theorem sumAdler_jac (s : State) : (sumAdler s).jac = s.jac := rfl
@[simp] theorem sumAdler_huf (s : State) : (sumAdler s).huf = s.huf := rfl
@[simp] theorem sumAdler_inf (s : State) : (sumAdler s).inf = s.inf := rfl
@[simp] theorem sumAdler_zlb (s : State) : (sumAdler s).zlb = { s.zlb with a := (adlerSums s.out 1 0).1, b := (adlerSums s.out 1 0).2 } := rfl
@[simp] theorem sumAdler_png (s : State) : (sumAdler s).png = s.png := rfl
@[simp] theorem sumAdler_crcT (s : State) : (sumAdler s).crcT = s.crcT := rfl
@[simp] theorem sumAdler_jdec (s : State) : (sumAdler s).jdec = s.jdec := rfl
@[simp] theorem sumAdler_qt (s : State) : (sumAdler s).qt = s.qt := rfl
@[simp] theorem sumAdler_qtPrec (s : State) : (sumAdler s).qtPrec = s.qtPrec := rfl
@[simp] theorem sumAdler_qtDef (s : State) : (sumAdler s).qtDef = s.qtDef := rfl
@[simp] theorem sumAdler_jhuf (s : State) : (sumAdler s).jhuf = s.jhuf := rfl
@[simp] theorem sumAdler_pred (s : State) : (sumAdler s).pred = s.pred := rfl
@[simp] theorem sumAdler_coef (s : State) : (sumAdler s).coef = s.coef := rfl
@[simp] theorem sumAdler_dq (s : State) : (sumAdler s).dq = s.dq := rfl
@[simp] theorem sumAdler_samp (s : State) : (sumAdler s).samp = s.samp := rfl
@[simp] theorem sumAdler_plane (s : State) : (sumAdler s).plane = s.plane := rfl
@[simp] theorem sumAdler_jbr (s : State) : (sumAdler s).jbr = s.jbr := rfl
@[simp] theorem sumAdler_jbrLive (s : State) : (sumAdler s).jbrLive = s.jbrLive := rfl
@[simp] theorem sumAdler_jc (s : State) : (sumAdler s).jc = s.jc := rfl
@[simp] theorem sumAdler_point (s : State) : (sumAdler s).point = s.point := rfl
@[simp] theorem sumAdler_running (s : State) : (sumAdler s).running = s.running := rfl
@[simp] theorem sumAdler_draws (s : State) : (sumAdler s).draws = s.draws := rfl
@[simp] theorem sumAdler_host (s : State) : (sumAdler s).host = s.host := rfl
@[simp] theorem sumAdler_hostRead (s : State) : (sumAdler s).hostRead = s.hostRead := rfl

@[simp] theorem latchHeader_cmd (f : Bool) (b : BitVec 2) (s : State) : (latchHeader f b s).cmd = s.cmd := rfl
@[simp] theorem latchHeader_status (f : Bool) (b : BitVec 2) (s : State) : (latchHeader f b s).status = s.status := rfl
@[simp] theorem latchHeader_errkind (f : Bool) (b : BitVec 2) (s : State) : (latchHeader f b s).errkind = s.errkind := rfl
@[simp] theorem latchHeader_diag (f : Bool) (b : BitVec 2) (s : State) : (latchHeader f b s).diag = s.diag := rfl
@[simp] theorem latchHeader_arg0 (f : Bool) (b : BitVec 2) (s : State) : (latchHeader f b s).arg0 = s.arg0 := rfl
@[simp] theorem latchHeader_arg1 (f : Bool) (b : BitVec 2) (s : State) : (latchHeader f b s).arg1 = s.arg1 := rfl
@[simp] theorem latchHeader_inBase (f : Bool) (b : BitVec 2) (s : State) : (latchHeader f b s).inBase = s.inBase := rfl
@[simp] theorem latchHeader_inLen (f : Bool) (b : BitVec 2) (s : State) : (latchHeader f b s).inLen = s.inLen := rfl
@[simp] theorem latchHeader_resValue (f : Bool) (b : BitVec 2) (s : State) : (latchHeader f b s).resValue = s.resValue := rfl
@[simp] theorem latchHeader_resWidth (f : Bool) (b : BitVec 2) (s : State) : (latchHeader f b s).resWidth = s.resWidth := rfl
@[simp] theorem latchHeader_resHeight (f : Bool) (b : BitVec 2) (s : State) : (latchHeader f b s).resHeight = s.resHeight := rfl
@[simp] theorem latchHeader_resChannels (f : Bool) (b : BitVec 2) (s : State) : (latchHeader f b s).resChannels = s.resChannels := rfl
@[simp] theorem latchHeader_resLen (f : Bool) (b : BitVec 2) (s : State) : (latchHeader f b s).resLen = s.resLen := rfl
@[simp] theorem latchHeader_input (f : Bool) (b : BitVec 2) (s : State) : (latchHeader f b s).input = s.input := rfl
@[simp] theorem latchHeader_out (f : Bool) (b : BitVec 2) (s : State) : (latchHeader f b s).out = s.out := rfl
@[simp] theorem latchHeader_idat (f : Bool) (b : BitVec 2) (s : State) : (latchHeader f b s).idat = s.idat := rfl
@[simp] theorem latchHeader_raw (f : Bool) (b : BitVec 2) (s : State) : (latchHeader f b s).raw = s.raw := rfl
@[simp] theorem latchHeader_win (f : Bool) (b : BitVec 2) (s : State) : (latchHeader f b s).win = s.win := rfl
@[simp] theorem latchHeader_br (f : Bool) (b : BitVec 2) (s : State) : (latchHeader f b s).br = s.br := rfl
@[simp] theorem latchHeader_brLive (f : Bool) (b : BitVec 2) (s : State) : (latchHeader f b s).brLive = s.brLive := rfl
@[simp] theorem latchHeader_tFixLL (f : Bool) (b : BitVec 2) (s : State) : (latchHeader f b s).tFixLL = s.tFixLL := rfl
@[simp] theorem latchHeader_tFixD (f : Bool) (b : BitVec 2) (s : State) : (latchHeader f b s).tFixD = s.tFixD := rfl
@[simp] theorem latchHeader_tCl (f : Bool) (b : BitVec 2) (s : State) : (latchHeader f b s).tCl = s.tCl := rfl
@[simp] theorem latchHeader_tLl (f : Bool) (b : BitVec 2) (s : State) : (latchHeader f b s).tLl = s.tLl := rfl
@[simp] theorem latchHeader_tD (f : Bool) (b : BitVec 2) (s : State) : (latchHeader f b s).tD = s.tD := rfl
@[simp] theorem latchHeader_tUser (f : Bool) (b : BitVec 2) (s : State) : (latchHeader f b s).tUser = s.tUser := rfl
@[simp] theorem latchHeader_jdc (f : Bool) (b : BitVec 2) (s : State) : (latchHeader f b s).jdc = s.jdc := rfl
@[simp] theorem latchHeader_jac (f : Bool) (b : BitVec 2) (s : State) : (latchHeader f b s).jac = s.jac := rfl
@[simp] theorem latchHeader_huf (f : Bool) (b : BitVec 2) (s : State) : (latchHeader f b s).huf = s.huf := rfl
@[simp] theorem latchHeader_inf (f : Bool) (b : BitVec 2) (s : State) : (latchHeader f b s).inf = { s.inf with bfinal := f, btype := b } := rfl
@[simp] theorem latchHeader_zlb (f : Bool) (b : BitVec 2) (s : State) : (latchHeader f b s).zlb = s.zlb := rfl
@[simp] theorem latchHeader_png (f : Bool) (b : BitVec 2) (s : State) : (latchHeader f b s).png = s.png := rfl
@[simp] theorem latchHeader_crcT (f : Bool) (b : BitVec 2) (s : State) : (latchHeader f b s).crcT = s.crcT := rfl
@[simp] theorem latchHeader_jdec (f : Bool) (b : BitVec 2) (s : State) : (latchHeader f b s).jdec = s.jdec := rfl
@[simp] theorem latchHeader_qt (f : Bool) (b : BitVec 2) (s : State) : (latchHeader f b s).qt = s.qt := rfl
@[simp] theorem latchHeader_qtPrec (f : Bool) (b : BitVec 2) (s : State) : (latchHeader f b s).qtPrec = s.qtPrec := rfl
@[simp] theorem latchHeader_qtDef (f : Bool) (b : BitVec 2) (s : State) : (latchHeader f b s).qtDef = s.qtDef := rfl
@[simp] theorem latchHeader_jhuf (f : Bool) (b : BitVec 2) (s : State) : (latchHeader f b s).jhuf = s.jhuf := rfl
@[simp] theorem latchHeader_pred (f : Bool) (b : BitVec 2) (s : State) : (latchHeader f b s).pred = s.pred := rfl
@[simp] theorem latchHeader_coef (f : Bool) (b : BitVec 2) (s : State) : (latchHeader f b s).coef = s.coef := rfl
@[simp] theorem latchHeader_dq (f : Bool) (b : BitVec 2) (s : State) : (latchHeader f b s).dq = s.dq := rfl
@[simp] theorem latchHeader_samp (f : Bool) (b : BitVec 2) (s : State) : (latchHeader f b s).samp = s.samp := rfl
@[simp] theorem latchHeader_plane (f : Bool) (b : BitVec 2) (s : State) : (latchHeader f b s).plane = s.plane := rfl
@[simp] theorem latchHeader_jbr (f : Bool) (b : BitVec 2) (s : State) : (latchHeader f b s).jbr = s.jbr := rfl
@[simp] theorem latchHeader_jbrLive (f : Bool) (b : BitVec 2) (s : State) : (latchHeader f b s).jbrLive = s.jbrLive := rfl
@[simp] theorem latchHeader_jc (f : Bool) (b : BitVec 2) (s : State) : (latchHeader f b s).jc = s.jc := rfl
@[simp] theorem latchHeader_point (f : Bool) (b : BitVec 2) (s : State) : (latchHeader f b s).point = s.point := rfl
@[simp] theorem latchHeader_running (f : Bool) (b : BitVec 2) (s : State) : (latchHeader f b s).running = s.running := rfl
@[simp] theorem latchHeader_draws (f : Bool) (b : BitVec 2) (s : State) : (latchHeader f b s).draws = s.draws := rfl
@[simp] theorem latchHeader_host (f : Bool) (b : BitVec 2) (s : State) : (latchHeader f b s).host = s.host := rfl
@[simp] theorem latchHeader_hostRead (f : Bool) (b : BitVec 2) (s : State) : (latchHeader f b s).hostRead = s.hostRead := rfl

@[simp] theorem nextChunk_cmd (s : State) : (nextChunk s).cmd = s.cmd := rfl
@[simp] theorem nextChunk_status (s : State) : (nextChunk s).status = s.status := rfl
@[simp] theorem nextChunk_errkind (s : State) : (nextChunk s).errkind = s.errkind := rfl
@[simp] theorem nextChunk_diag (s : State) : (nextChunk s).diag = s.diag := rfl
@[simp] theorem nextChunk_arg0 (s : State) : (nextChunk s).arg0 = s.arg0 := rfl
@[simp] theorem nextChunk_arg1 (s : State) : (nextChunk s).arg1 = s.arg1 := rfl
@[simp] theorem nextChunk_inBase (s : State) : (nextChunk s).inBase = s.inBase := rfl
@[simp] theorem nextChunk_inLen (s : State) : (nextChunk s).inLen = s.inLen := rfl
@[simp] theorem nextChunk_resValue (s : State) : (nextChunk s).resValue = s.resValue := rfl
@[simp] theorem nextChunk_resWidth (s : State) : (nextChunk s).resWidth = s.resWidth := rfl
@[simp] theorem nextChunk_resHeight (s : State) : (nextChunk s).resHeight = s.resHeight := rfl
@[simp] theorem nextChunk_resChannels (s : State) : (nextChunk s).resChannels = s.resChannels := rfl
@[simp] theorem nextChunk_resLen (s : State) : (nextChunk s).resLen = s.resLen := rfl
@[simp] theorem nextChunk_input (s : State) : (nextChunk s).input = s.input := rfl
@[simp] theorem nextChunk_out (s : State) : (nextChunk s).out = s.out := rfl
@[simp] theorem nextChunk_idat (s : State) : (nextChunk s).idat = s.idat := rfl
@[simp] theorem nextChunk_raw (s : State) : (nextChunk s).raw = s.raw := rfl
@[simp] theorem nextChunk_win (s : State) : (nextChunk s).win = s.win := rfl
@[simp] theorem nextChunk_br (s : State) : (nextChunk s).br = s.br := rfl
@[simp] theorem nextChunk_brLive (s : State) : (nextChunk s).brLive = s.brLive := rfl
@[simp] theorem nextChunk_tFixLL (s : State) : (nextChunk s).tFixLL = s.tFixLL := rfl
@[simp] theorem nextChunk_tFixD (s : State) : (nextChunk s).tFixD = s.tFixD := rfl
@[simp] theorem nextChunk_tCl (s : State) : (nextChunk s).tCl = s.tCl := rfl
@[simp] theorem nextChunk_tLl (s : State) : (nextChunk s).tLl = s.tLl := rfl
@[simp] theorem nextChunk_tD (s : State) : (nextChunk s).tD = s.tD := rfl
@[simp] theorem nextChunk_tUser (s : State) : (nextChunk s).tUser = s.tUser := rfl
@[simp] theorem nextChunk_jdc (s : State) : (nextChunk s).jdc = s.jdc := rfl
@[simp] theorem nextChunk_jac (s : State) : (nextChunk s).jac = s.jac := rfl
@[simp] theorem nextChunk_huf (s : State) : (nextChunk s).huf = s.huf := rfl
@[simp] theorem nextChunk_inf (s : State) : (nextChunk s).inf = s.inf := rfl
@[simp] theorem nextChunk_zlb (s : State) : (nextChunk s).zlb = s.zlb := rfl
@[simp] theorem nextChunk_png (s : State) : (nextChunk s).png = { s.png with pos := s.png.pos + 12 + s.png.chunkLength } := rfl
@[simp] theorem nextChunk_crcT (s : State) : (nextChunk s).crcT = s.crcT := rfl
@[simp] theorem nextChunk_jdec (s : State) : (nextChunk s).jdec = s.jdec := rfl
@[simp] theorem nextChunk_qt (s : State) : (nextChunk s).qt = s.qt := rfl
@[simp] theorem nextChunk_qtPrec (s : State) : (nextChunk s).qtPrec = s.qtPrec := rfl
@[simp] theorem nextChunk_qtDef (s : State) : (nextChunk s).qtDef = s.qtDef := rfl
@[simp] theorem nextChunk_jhuf (s : State) : (nextChunk s).jhuf = s.jhuf := rfl
@[simp] theorem nextChunk_pred (s : State) : (nextChunk s).pred = s.pred := rfl
@[simp] theorem nextChunk_coef (s : State) : (nextChunk s).coef = s.coef := rfl
@[simp] theorem nextChunk_dq (s : State) : (nextChunk s).dq = s.dq := rfl
@[simp] theorem nextChunk_samp (s : State) : (nextChunk s).samp = s.samp := rfl
@[simp] theorem nextChunk_plane (s : State) : (nextChunk s).plane = s.plane := rfl
@[simp] theorem nextChunk_jbr (s : State) : (nextChunk s).jbr = s.jbr := rfl
@[simp] theorem nextChunk_jbrLive (s : State) : (nextChunk s).jbrLive = s.jbrLive := rfl
@[simp] theorem nextChunk_jc (s : State) : (nextChunk s).jc = s.jc := rfl
@[simp] theorem nextChunk_point (s : State) : (nextChunk s).point = .pngChunk := rfl
@[simp] theorem nextChunk_running (s : State) : (nextChunk s).running = s.running := rfl
@[simp] theorem nextChunk_draws (s : State) : (nextChunk s).draws = s.draws := rfl
@[simp] theorem nextChunk_host (s : State) : (nextChunk s).host = s.host := rfl
@[simp] theorem nextChunk_hostRead (s : State) : (nextChunk s).hostRead = s.hostRead := rfl

@[simp] theorem nextMarker_cmd (s : State) : (nextMarker s).cmd = s.cmd := rfl
@[simp] theorem nextMarker_status (s : State) : (nextMarker s).status = s.status := rfl
@[simp] theorem nextMarker_errkind (s : State) : (nextMarker s).errkind = s.errkind := rfl
@[simp] theorem nextMarker_diag (s : State) : (nextMarker s).diag = s.diag := rfl
@[simp] theorem nextMarker_arg0 (s : State) : (nextMarker s).arg0 = s.arg0 := rfl
@[simp] theorem nextMarker_arg1 (s : State) : (nextMarker s).arg1 = s.arg1 := rfl
@[simp] theorem nextMarker_inBase (s : State) : (nextMarker s).inBase = s.inBase := rfl
@[simp] theorem nextMarker_inLen (s : State) : (nextMarker s).inLen = s.inLen := rfl
@[simp] theorem nextMarker_resValue (s : State) : (nextMarker s).resValue = s.resValue := rfl
@[simp] theorem nextMarker_resWidth (s : State) : (nextMarker s).resWidth = s.resWidth := rfl
@[simp] theorem nextMarker_resHeight (s : State) : (nextMarker s).resHeight = s.resHeight := rfl
@[simp] theorem nextMarker_resChannels (s : State) : (nextMarker s).resChannels = s.resChannels := rfl
@[simp] theorem nextMarker_resLen (s : State) : (nextMarker s).resLen = s.resLen := rfl
@[simp] theorem nextMarker_input (s : State) : (nextMarker s).input = s.input := rfl
@[simp] theorem nextMarker_out (s : State) : (nextMarker s).out = s.out := rfl
@[simp] theorem nextMarker_idat (s : State) : (nextMarker s).idat = s.idat := rfl
@[simp] theorem nextMarker_raw (s : State) : (nextMarker s).raw = s.raw := rfl
@[simp] theorem nextMarker_win (s : State) : (nextMarker s).win = s.win := rfl
@[simp] theorem nextMarker_br (s : State) : (nextMarker s).br = s.br := rfl
@[simp] theorem nextMarker_brLive (s : State) : (nextMarker s).brLive = s.brLive := rfl
@[simp] theorem nextMarker_tFixLL (s : State) : (nextMarker s).tFixLL = s.tFixLL := rfl
@[simp] theorem nextMarker_tFixD (s : State) : (nextMarker s).tFixD = s.tFixD := rfl
@[simp] theorem nextMarker_tCl (s : State) : (nextMarker s).tCl = s.tCl := rfl
@[simp] theorem nextMarker_tLl (s : State) : (nextMarker s).tLl = s.tLl := rfl
@[simp] theorem nextMarker_tD (s : State) : (nextMarker s).tD = s.tD := rfl
@[simp] theorem nextMarker_tUser (s : State) : (nextMarker s).tUser = s.tUser := rfl
@[simp] theorem nextMarker_jdc (s : State) : (nextMarker s).jdc = s.jdc := rfl
@[simp] theorem nextMarker_jac (s : State) : (nextMarker s).jac = s.jac := rfl
@[simp] theorem nextMarker_huf (s : State) : (nextMarker s).huf = s.huf := rfl
@[simp] theorem nextMarker_inf (s : State) : (nextMarker s).inf = s.inf := rfl
@[simp] theorem nextMarker_zlb (s : State) : (nextMarker s).zlb = s.zlb := rfl
@[simp] theorem nextMarker_png (s : State) : (nextMarker s).png = s.png := rfl
@[simp] theorem nextMarker_crcT (s : State) : (nextMarker s).crcT = s.crcT := rfl
@[simp] theorem nextMarker_jdec (s : State) : (nextMarker s).jdec = s.jdec := rfl
@[simp] theorem nextMarker_qt (s : State) : (nextMarker s).qt = s.qt := rfl
@[simp] theorem nextMarker_qtPrec (s : State) : (nextMarker s).qtPrec = s.qtPrec := rfl
@[simp] theorem nextMarker_qtDef (s : State) : (nextMarker s).qtDef = s.qtDef := rfl
@[simp] theorem nextMarker_jhuf (s : State) : (nextMarker s).jhuf = s.jhuf := rfl
@[simp] theorem nextMarker_pred (s : State) : (nextMarker s).pred = s.pred := rfl
@[simp] theorem nextMarker_coef (s : State) : (nextMarker s).coef = s.coef := rfl
@[simp] theorem nextMarker_dq (s : State) : (nextMarker s).dq = s.dq := rfl
@[simp] theorem nextMarker_samp (s : State) : (nextMarker s).samp = s.samp := rfl
@[simp] theorem nextMarker_plane (s : State) : (nextMarker s).plane = s.plane := rfl
@[simp] theorem nextMarker_jbr (s : State) : (nextMarker s).jbr = s.jbr := rfl
@[simp] theorem nextMarker_jbrLive (s : State) : (nextMarker s).jbrLive = s.jbrLive := rfl
@[simp] theorem nextMarker_jc (s : State) : (nextMarker s).jc = s.jc := rfl
@[simp] theorem nextMarker_point (s : State) : (nextMarker s).point = .jpegMarker := rfl
@[simp] theorem nextMarker_running (s : State) : (nextMarker s).running = s.running := rfl
@[simp] theorem nextMarker_draws (s : State) : (nextMarker s).draws = s.draws := rfl
@[simp] theorem nextMarker_host (s : State) : (nextMarker s).host = s.host := rfl
@[simp] theorem nextMarker_hostRead (s : State) : (nextMarker s).hostRead = s.hostRead := rfl

@[simp] theorem resetEntropy_cmd (p : Nat) (s : State) : (resetEntropy p s).cmd = s.cmd := rfl
@[simp] theorem resetEntropy_status (p : Nat) (s : State) : (resetEntropy p s).status = s.status := rfl
@[simp] theorem resetEntropy_errkind (p : Nat) (s : State) : (resetEntropy p s).errkind = s.errkind := rfl
@[simp] theorem resetEntropy_diag (p : Nat) (s : State) : (resetEntropy p s).diag = s.diag := rfl
@[simp] theorem resetEntropy_arg0 (p : Nat) (s : State) : (resetEntropy p s).arg0 = s.arg0 := rfl
@[simp] theorem resetEntropy_arg1 (p : Nat) (s : State) : (resetEntropy p s).arg1 = s.arg1 := rfl
@[simp] theorem resetEntropy_inBase (p : Nat) (s : State) : (resetEntropy p s).inBase = s.inBase := rfl
@[simp] theorem resetEntropy_inLen (p : Nat) (s : State) : (resetEntropy p s).inLen = s.inLen := rfl
@[simp] theorem resetEntropy_resValue (p : Nat) (s : State) : (resetEntropy p s).resValue = s.resValue := rfl
@[simp] theorem resetEntropy_resWidth (p : Nat) (s : State) : (resetEntropy p s).resWidth = s.resWidth := rfl
@[simp] theorem resetEntropy_resHeight (p : Nat) (s : State) : (resetEntropy p s).resHeight = s.resHeight := rfl
@[simp] theorem resetEntropy_resChannels (p : Nat) (s : State) : (resetEntropy p s).resChannels = s.resChannels := rfl
@[simp] theorem resetEntropy_resLen (p : Nat) (s : State) : (resetEntropy p s).resLen = s.resLen := rfl
@[simp] theorem resetEntropy_input (p : Nat) (s : State) : (resetEntropy p s).input = s.input := rfl
@[simp] theorem resetEntropy_out (p : Nat) (s : State) : (resetEntropy p s).out = s.out := rfl
@[simp] theorem resetEntropy_idat (p : Nat) (s : State) : (resetEntropy p s).idat = s.idat := rfl
@[simp] theorem resetEntropy_raw (p : Nat) (s : State) : (resetEntropy p s).raw = s.raw := rfl
@[simp] theorem resetEntropy_win (p : Nat) (s : State) : (resetEntropy p s).win = s.win := rfl
@[simp] theorem resetEntropy_br (p : Nat) (s : State) : (resetEntropy p s).br = s.br := rfl
@[simp] theorem resetEntropy_brLive (p : Nat) (s : State) : (resetEntropy p s).brLive = s.brLive := rfl
@[simp] theorem resetEntropy_tFixLL (p : Nat) (s : State) : (resetEntropy p s).tFixLL = s.tFixLL := rfl
@[simp] theorem resetEntropy_tFixD (p : Nat) (s : State) : (resetEntropy p s).tFixD = s.tFixD := rfl
@[simp] theorem resetEntropy_tCl (p : Nat) (s : State) : (resetEntropy p s).tCl = s.tCl := rfl
@[simp] theorem resetEntropy_tLl (p : Nat) (s : State) : (resetEntropy p s).tLl = s.tLl := rfl
@[simp] theorem resetEntropy_tD (p : Nat) (s : State) : (resetEntropy p s).tD = s.tD := rfl
@[simp] theorem resetEntropy_tUser (p : Nat) (s : State) : (resetEntropy p s).tUser = s.tUser := rfl
@[simp] theorem resetEntropy_jdc (p : Nat) (s : State) : (resetEntropy p s).jdc = s.jdc := rfl
@[simp] theorem resetEntropy_jac (p : Nat) (s : State) : (resetEntropy p s).jac = s.jac := rfl
@[simp] theorem resetEntropy_huf (p : Nat) (s : State) : (resetEntropy p s).huf = s.huf := rfl
@[simp] theorem resetEntropy_inf (p : Nat) (s : State) : (resetEntropy p s).inf = s.inf := rfl
@[simp] theorem resetEntropy_zlb (p : Nat) (s : State) : (resetEntropy p s).zlb = s.zlb := rfl
@[simp] theorem resetEntropy_png (p : Nat) (s : State) : (resetEntropy p s).png = s.png := rfl
@[simp] theorem resetEntropy_crcT (p : Nat) (s : State) : (resetEntropy p s).crcT = s.crcT := rfl
@[simp] theorem resetEntropy_jdec (p : Nat) (s : State) : (resetEntropy p s).jdec = s.jdec := rfl
@[simp] theorem resetEntropy_qt (p : Nat) (s : State) : (resetEntropy p s).qt = s.qt := rfl
@[simp] theorem resetEntropy_qtPrec (p : Nat) (s : State) : (resetEntropy p s).qtPrec = s.qtPrec := rfl
@[simp] theorem resetEntropy_qtDef (p : Nat) (s : State) : (resetEntropy p s).qtDef = s.qtDef := rfl
@[simp] theorem resetEntropy_jhuf (p : Nat) (s : State) : (resetEntropy p s).jhuf = s.jhuf := rfl
@[simp] theorem resetEntropy_pred (p : Nat) (s : State) : (resetEntropy p s).pred = List.replicate 3 0 := rfl
@[simp] theorem resetEntropy_coef (p : Nat) (s : State) : (resetEntropy p s).coef = s.coef := rfl
@[simp] theorem resetEntropy_dq (p : Nat) (s : State) : (resetEntropy p s).dq = s.dq := rfl
@[simp] theorem resetEntropy_samp (p : Nat) (s : State) : (resetEntropy p s).samp = s.samp := rfl
@[simp] theorem resetEntropy_plane (p : Nat) (s : State) : (resetEntropy p s).plane = s.plane := rfl
@[simp] theorem resetEntropy_jbr (p : Nat) (s : State) : (resetEntropy p s).jbr = { pos := p, acc := 0#8, cnt := 0 } := rfl
@[simp] theorem resetEntropy_jbrLive (p : Nat) (s : State) : (resetEntropy p s).jbrLive = true := rfl
@[simp] theorem resetEntropy_jc (p : Nat) (s : State) : (resetEntropy p s).jc = s.jc := rfl
@[simp] theorem resetEntropy_point (p : Nat) (s : State) : (resetEntropy p s).point = s.point := rfl
@[simp] theorem resetEntropy_running (p : Nat) (s : State) : (resetEntropy p s).running = s.running := rfl
@[simp] theorem resetEntropy_draws (p : Nat) (s : State) : (resetEntropy p s).draws = s.draws := rfl
@[simp] theorem resetEntropy_host (p : Nat) (s : State) : (resetEntropy p s).host = s.host := rfl
@[simp] theorem resetEntropy_hostRead (p : Nat) (s : State) : (resetEntropy p s).hostRead = s.hostRead := rfl

@[simp] theorem beginBlock_cmd (c td ta : Nat) (s : State) : (beginBlock c td ta s).cmd = s.cmd := rfl
@[simp] theorem beginBlock_status (c td ta : Nat) (s : State) : (beginBlock c td ta s).status = s.status := rfl
@[simp] theorem beginBlock_errkind (c td ta : Nat) (s : State) : (beginBlock c td ta s).errkind = s.errkind := rfl
@[simp] theorem beginBlock_diag (c td ta : Nat) (s : State) : (beginBlock c td ta s).diag = s.diag := rfl
@[simp] theorem beginBlock_arg0 (c td ta : Nat) (s : State) : (beginBlock c td ta s).arg0 = s.arg0 := rfl
@[simp] theorem beginBlock_arg1 (c td ta : Nat) (s : State) : (beginBlock c td ta s).arg1 = s.arg1 := rfl
@[simp] theorem beginBlock_inBase (c td ta : Nat) (s : State) : (beginBlock c td ta s).inBase = s.inBase := rfl
@[simp] theorem beginBlock_inLen (c td ta : Nat) (s : State) : (beginBlock c td ta s).inLen = s.inLen := rfl
@[simp] theorem beginBlock_resValue (c td ta : Nat) (s : State) : (beginBlock c td ta s).resValue = s.resValue := rfl
@[simp] theorem beginBlock_resWidth (c td ta : Nat) (s : State) : (beginBlock c td ta s).resWidth = s.resWidth := rfl
@[simp] theorem beginBlock_resHeight (c td ta : Nat) (s : State) : (beginBlock c td ta s).resHeight = s.resHeight := rfl
@[simp] theorem beginBlock_resChannels (c td ta : Nat) (s : State) : (beginBlock c td ta s).resChannels = s.resChannels := rfl
@[simp] theorem beginBlock_resLen (c td ta : Nat) (s : State) : (beginBlock c td ta s).resLen = s.resLen := rfl
@[simp] theorem beginBlock_input (c td ta : Nat) (s : State) : (beginBlock c td ta s).input = s.input := rfl
@[simp] theorem beginBlock_out (c td ta : Nat) (s : State) : (beginBlock c td ta s).out = s.out := rfl
@[simp] theorem beginBlock_idat (c td ta : Nat) (s : State) : (beginBlock c td ta s).idat = s.idat := rfl
@[simp] theorem beginBlock_raw (c td ta : Nat) (s : State) : (beginBlock c td ta s).raw = s.raw := rfl
@[simp] theorem beginBlock_win (c td ta : Nat) (s : State) : (beginBlock c td ta s).win = s.win := rfl
@[simp] theorem beginBlock_br (c td ta : Nat) (s : State) : (beginBlock c td ta s).br = s.br := rfl
@[simp] theorem beginBlock_brLive (c td ta : Nat) (s : State) : (beginBlock c td ta s).brLive = s.brLive := rfl
@[simp] theorem beginBlock_tFixLL (c td ta : Nat) (s : State) : (beginBlock c td ta s).tFixLL = s.tFixLL := rfl
@[simp] theorem beginBlock_tFixD (c td ta : Nat) (s : State) : (beginBlock c td ta s).tFixD = s.tFixD := rfl
@[simp] theorem beginBlock_tCl (c td ta : Nat) (s : State) : (beginBlock c td ta s).tCl = s.tCl := rfl
@[simp] theorem beginBlock_tLl (c td ta : Nat) (s : State) : (beginBlock c td ta s).tLl = s.tLl := rfl
@[simp] theorem beginBlock_tD (c td ta : Nat) (s : State) : (beginBlock c td ta s).tD = s.tD := rfl
@[simp] theorem beginBlock_tUser (c td ta : Nat) (s : State) : (beginBlock c td ta s).tUser = s.tUser := rfl
@[simp] theorem beginBlock_jdc (c td ta : Nat) (s : State) : (beginBlock c td ta s).jdc = s.jdc := rfl
@[simp] theorem beginBlock_jac (c td ta : Nat) (s : State) : (beginBlock c td ta s).jac = s.jac := rfl
@[simp] theorem beginBlock_huf (c td ta : Nat) (s : State) : (beginBlock c td ta s).huf = s.huf := rfl
@[simp] theorem beginBlock_inf (c td ta : Nat) (s : State) : (beginBlock c td ta s).inf = s.inf := rfl
@[simp] theorem beginBlock_zlb (c td ta : Nat) (s : State) : (beginBlock c td ta s).zlb = s.zlb := rfl
@[simp] theorem beginBlock_png (c td ta : Nat) (s : State) : (beginBlock c td ta s).png = s.png := rfl
@[simp] theorem beginBlock_crcT (c td ta : Nat) (s : State) : (beginBlock c td ta s).crcT = s.crcT := rfl
@[simp] theorem beginBlock_jdec (c td ta : Nat) (s : State) : (beginBlock c td ta s).jdec = s.jdec := rfl
@[simp] theorem beginBlock_qt (c td ta : Nat) (s : State) : (beginBlock c td ta s).qt = s.qt := rfl
@[simp] theorem beginBlock_qtPrec (c td ta : Nat) (s : State) : (beginBlock c td ta s).qtPrec = s.qtPrec := rfl
@[simp] theorem beginBlock_qtDef (c td ta : Nat) (s : State) : (beginBlock c td ta s).qtDef = s.qtDef := rfl
@[simp] theorem beginBlock_jhuf (c td ta : Nat) (s : State) : (beginBlock c td ta s).jhuf = s.jhuf := rfl
@[simp] theorem beginBlock_pred (c td ta : Nat) (s : State) : (beginBlock c td ta s).pred = s.pred := rfl
@[simp] theorem beginBlock_coef (c td ta : Nat) (s : State) : (beginBlock c td ta s).coef = List.replicate 64 0 := rfl
@[simp] theorem beginBlock_dq (c td ta : Nat) (s : State) : (beginBlock c td ta s).dq = s.dq := rfl
@[simp] theorem beginBlock_samp (c td ta : Nat) (s : State) : (beginBlock c td ta s).samp = s.samp := rfl
@[simp] theorem beginBlock_plane (c td ta : Nat) (s : State) : (beginBlock c td ta s).plane = s.plane := rfl
@[simp] theorem beginBlock_jbr (c td ta : Nat) (s : State) : (beginBlock c td ta s).jbr = s.jbr := rfl
@[simp] theorem beginBlock_jbrLive (c td ta : Nat) (s : State) : (beginBlock c td ta s).jbrLive = s.jbrLive := rfl
@[simp] theorem beginBlock_jc (c td ta : Nat) (s : State) : (beginBlock c td ta s).jc = { s.jc with c := c, td := td, ta := ta, k := 0 } := rfl
@[simp] theorem beginBlock_point (c td ta : Nat) (s : State) : (beginBlock c td ta s).point = .jpegDc := rfl
@[simp] theorem beginBlock_running (c td ta : Nat) (s : State) : (beginBlock c td ta s).running = s.running := rfl
@[simp] theorem beginBlock_draws (c td ta : Nat) (s : State) : (beginBlock c td ta s).draws = s.draws := rfl
@[simp] theorem beginBlock_host (c td ta : Nat) (s : State) : (beginBlock c td ta s).host = s.host := rfl
@[simp] theorem beginBlock_hostRead (c td ta : Nat) (s : State) : (beginBlock c td ta s).hostRead = s.hostRead := rfl

@[simp] theorem transform_cmd (s : State) : (transform s).cmd = s.cmd := rfl
@[simp] theorem transform_status (s : State) : (transform s).status = s.status := rfl
@[simp] theorem transform_errkind (s : State) : (transform s).errkind = s.errkind := rfl
@[simp] theorem transform_diag (s : State) : (transform s).diag = s.diag := rfl
@[simp] theorem transform_arg0 (s : State) : (transform s).arg0 = s.arg0 := rfl
@[simp] theorem transform_arg1 (s : State) : (transform s).arg1 = s.arg1 := rfl
@[simp] theorem transform_inBase (s : State) : (transform s).inBase = s.inBase := rfl
@[simp] theorem transform_inLen (s : State) : (transform s).inLen = s.inLen := rfl
@[simp] theorem transform_resValue (s : State) : (transform s).resValue = s.resValue := rfl
@[simp] theorem transform_resWidth (s : State) : (transform s).resWidth = s.resWidth := rfl
@[simp] theorem transform_resHeight (s : State) : (transform s).resHeight = s.resHeight := rfl
@[simp] theorem transform_resChannels (s : State) : (transform s).resChannels = s.resChannels := rfl
@[simp] theorem transform_resLen (s : State) : (transform s).resLen = s.resLen := rfl
@[simp] theorem transform_input (s : State) : (transform s).input = s.input := rfl
@[simp] theorem transform_out (s : State) : (transform s).out = s.out := rfl
@[simp] theorem transform_idat (s : State) : (transform s).idat = s.idat := rfl
@[simp] theorem transform_raw (s : State) : (transform s).raw = s.raw := rfl
@[simp] theorem transform_win (s : State) : (transform s).win = s.win := rfl
@[simp] theorem transform_br (s : State) : (transform s).br = s.br := rfl
@[simp] theorem transform_brLive (s : State) : (transform s).brLive = s.brLive := rfl
@[simp] theorem transform_tFixLL (s : State) : (transform s).tFixLL = s.tFixLL := rfl
@[simp] theorem transform_tFixD (s : State) : (transform s).tFixD = s.tFixD := rfl
@[simp] theorem transform_tCl (s : State) : (transform s).tCl = s.tCl := rfl
@[simp] theorem transform_tLl (s : State) : (transform s).tLl = s.tLl := rfl
@[simp] theorem transform_tD (s : State) : (transform s).tD = s.tD := rfl
@[simp] theorem transform_tUser (s : State) : (transform s).tUser = s.tUser := rfl
@[simp] theorem transform_jdc (s : State) : (transform s).jdc = s.jdc := rfl
@[simp] theorem transform_jac (s : State) : (transform s).jac = s.jac := rfl
@[simp] theorem transform_huf (s : State) : (transform s).huf = s.huf := rfl
@[simp] theorem transform_inf (s : State) : (transform s).inf = s.inf := rfl
@[simp] theorem transform_zlb (s : State) : (transform s).zlb = s.zlb := rfl
@[simp] theorem transform_png (s : State) : (transform s).png = s.png := rfl
@[simp] theorem transform_crcT (s : State) : (transform s).crcT = s.crcT := rfl
@[simp] theorem transform_jdec (s : State) : (transform s).jdec = s.jdec := rfl
@[simp] theorem transform_qt (s : State) : (transform s).qt = s.qt := rfl
@[simp] theorem transform_qtPrec (s : State) : (transform s).qtPrec = s.qtPrec := rfl
@[simp] theorem transform_qtDef (s : State) : (transform s).qtDef = s.qtDef := rfl
@[simp] theorem transform_jhuf (s : State) : (transform s).jhuf = s.jhuf := rfl
@[simp] theorem transform_pred (s : State) : (transform s).pred = s.pred := rfl
@[simp] theorem transform_coef (s : State) : (transform s).coef = s.coef := rfl
@[simp] theorem transform_dq (s : State) : (transform s).dq = s.dq := rfl
@[simp] theorem transform_samp (s : State) : (transform s).samp = idct s.dq := rfl
@[simp] theorem transform_plane (s : State) : (transform s).plane = s.plane := rfl
@[simp] theorem transform_jbr (s : State) : (transform s).jbr = s.jbr := rfl
@[simp] theorem transform_jbrLive (s : State) : (transform s).jbrLive = s.jbrLive := rfl
@[simp] theorem transform_jc (s : State) : (transform s).jc = s.jc := rfl
@[simp] theorem transform_point (s : State) : (transform s).point = s.point := rfl
@[simp] theorem transform_running (s : State) : (transform s).running = s.running := rfl
@[simp] theorem transform_draws (s : State) : (transform s).draws = s.draws := rfl
@[simp] theorem transform_host (s : State) : (transform s).host = s.host := rfl
@[simp] theorem transform_hostRead (s : State) : (transform s).hostRead = s.hostRead := rfl

@[simp] theorem storeDc_cmd (d : Int) (s : State) : (storeDc d s).cmd = s.cmd := rfl
@[simp] theorem storeDc_status (d : Int) (s : State) : (storeDc d s).status = s.status := rfl
@[simp] theorem storeDc_errkind (d : Int) (s : State) : (storeDc d s).errkind = s.errkind := rfl
@[simp] theorem storeDc_diag (d : Int) (s : State) : (storeDc d s).diag = s.diag := rfl
@[simp] theorem storeDc_arg0 (d : Int) (s : State) : (storeDc d s).arg0 = s.arg0 := rfl
@[simp] theorem storeDc_arg1 (d : Int) (s : State) : (storeDc d s).arg1 = s.arg1 := rfl
@[simp] theorem storeDc_inBase (d : Int) (s : State) : (storeDc d s).inBase = s.inBase := rfl
@[simp] theorem storeDc_inLen (d : Int) (s : State) : (storeDc d s).inLen = s.inLen := rfl
@[simp] theorem storeDc_resValue (d : Int) (s : State) : (storeDc d s).resValue = s.resValue := rfl
@[simp] theorem storeDc_resWidth (d : Int) (s : State) : (storeDc d s).resWidth = s.resWidth := rfl
@[simp] theorem storeDc_resHeight (d : Int) (s : State) : (storeDc d s).resHeight = s.resHeight := rfl
@[simp] theorem storeDc_resChannels (d : Int) (s : State) : (storeDc d s).resChannels = s.resChannels := rfl
@[simp] theorem storeDc_resLen (d : Int) (s : State) : (storeDc d s).resLen = s.resLen := rfl
@[simp] theorem storeDc_input (d : Int) (s : State) : (storeDc d s).input = s.input := rfl
@[simp] theorem storeDc_out (d : Int) (s : State) : (storeDc d s).out = s.out := rfl
@[simp] theorem storeDc_idat (d : Int) (s : State) : (storeDc d s).idat = s.idat := rfl
@[simp] theorem storeDc_raw (d : Int) (s : State) : (storeDc d s).raw = s.raw := rfl
@[simp] theorem storeDc_win (d : Int) (s : State) : (storeDc d s).win = s.win := rfl
@[simp] theorem storeDc_br (d : Int) (s : State) : (storeDc d s).br = s.br := rfl
@[simp] theorem storeDc_brLive (d : Int) (s : State) : (storeDc d s).brLive = s.brLive := rfl
@[simp] theorem storeDc_tFixLL (d : Int) (s : State) : (storeDc d s).tFixLL = s.tFixLL := rfl
@[simp] theorem storeDc_tFixD (d : Int) (s : State) : (storeDc d s).tFixD = s.tFixD := rfl
@[simp] theorem storeDc_tCl (d : Int) (s : State) : (storeDc d s).tCl = s.tCl := rfl
@[simp] theorem storeDc_tLl (d : Int) (s : State) : (storeDc d s).tLl = s.tLl := rfl
@[simp] theorem storeDc_tD (d : Int) (s : State) : (storeDc d s).tD = s.tD := rfl
@[simp] theorem storeDc_tUser (d : Int) (s : State) : (storeDc d s).tUser = s.tUser := rfl
@[simp] theorem storeDc_jdc (d : Int) (s : State) : (storeDc d s).jdc = s.jdc := rfl
@[simp] theorem storeDc_jac (d : Int) (s : State) : (storeDc d s).jac = s.jac := rfl
@[simp] theorem storeDc_huf (d : Int) (s : State) : (storeDc d s).huf = s.huf := rfl
@[simp] theorem storeDc_inf (d : Int) (s : State) : (storeDc d s).inf = s.inf := rfl
@[simp] theorem storeDc_zlb (d : Int) (s : State) : (storeDc d s).zlb = s.zlb := rfl
@[simp] theorem storeDc_png (d : Int) (s : State) : (storeDc d s).png = s.png := rfl
@[simp] theorem storeDc_crcT (d : Int) (s : State) : (storeDc d s).crcT = s.crcT := rfl
@[simp] theorem storeDc_jdec (d : Int) (s : State) : (storeDc d s).jdec = s.jdec := rfl
@[simp] theorem storeDc_qt (d : Int) (s : State) : (storeDc d s).qt = s.qt := rfl
@[simp] theorem storeDc_qtPrec (d : Int) (s : State) : (storeDc d s).qtPrec = s.qtPrec := rfl
@[simp] theorem storeDc_qtDef (d : Int) (s : State) : (storeDc d s).qtDef = s.qtDef := rfl
@[simp] theorem storeDc_jhuf (d : Int) (s : State) : (storeDc d s).jhuf = s.jhuf := rfl
@[simp] theorem storeDc_pred (d : Int) (s : State) : (storeDc d s).pred = s.pred.set s.jc.c (s.pred.getD s.jc.c 0 + d) := rfl
@[simp] theorem storeDc_coef (d : Int) (s : State) : (storeDc d s).coef = s.coef.set 0 (s.pred.getD s.jc.c 0 + d) := rfl
@[simp] theorem storeDc_dq (d : Int) (s : State) : (storeDc d s).dq = s.dq := rfl
@[simp] theorem storeDc_samp (d : Int) (s : State) : (storeDc d s).samp = s.samp := rfl
@[simp] theorem storeDc_plane (d : Int) (s : State) : (storeDc d s).plane = s.plane := rfl
@[simp] theorem storeDc_jbr (d : Int) (s : State) : (storeDc d s).jbr = s.jbr := rfl
@[simp] theorem storeDc_jbrLive (d : Int) (s : State) : (storeDc d s).jbrLive = s.jbrLive := rfl
@[simp] theorem storeDc_jc (d : Int) (s : State) : (storeDc d s).jc = { s.jc with k := 1 } := rfl
@[simp] theorem storeDc_point (d : Int) (s : State) : (storeDc d s).point = s.point := rfl
@[simp] theorem storeDc_running (d : Int) (s : State) : (storeDc d s).running = s.running := rfl
@[simp] theorem storeDc_draws (d : Int) (s : State) : (storeDc d s).draws = s.draws := rfl
@[simp] theorem storeDc_host (d : Int) (s : State) : (storeDc d s).host = s.host := rfl
@[simp] theorem storeDc_hostRead (d : Int) (s : State) : (storeDc d s).hostRead = s.hostRead := rfl

@[simp] theorem endScan_cmd (s : State) : (endScan s).cmd = s.cmd := rfl
@[simp] theorem endScan_status (s : State) : (endScan s).status = s.status := rfl
@[simp] theorem endScan_errkind (s : State) : (endScan s).errkind = s.errkind := rfl
@[simp] theorem endScan_diag (s : State) : (endScan s).diag = s.diag := rfl
@[simp] theorem endScan_arg0 (s : State) : (endScan s).arg0 = s.arg0 := rfl
@[simp] theorem endScan_arg1 (s : State) : (endScan s).arg1 = s.arg1 := rfl
@[simp] theorem endScan_inBase (s : State) : (endScan s).inBase = s.inBase := rfl
@[simp] theorem endScan_inLen (s : State) : (endScan s).inLen = s.inLen := rfl
@[simp] theorem endScan_resValue (s : State) : (endScan s).resValue = s.resValue := rfl
@[simp] theorem endScan_resWidth (s : State) : (endScan s).resWidth = s.resWidth := rfl
@[simp] theorem endScan_resHeight (s : State) : (endScan s).resHeight = s.resHeight := rfl
@[simp] theorem endScan_resChannels (s : State) : (endScan s).resChannels = s.resChannels := rfl
@[simp] theorem endScan_resLen (s : State) : (endScan s).resLen = s.resLen := rfl
@[simp] theorem endScan_input (s : State) : (endScan s).input = s.input := rfl
@[simp] theorem endScan_out (s : State) : (endScan s).out = s.out := rfl
@[simp] theorem endScan_idat (s : State) : (endScan s).idat = s.idat := rfl
@[simp] theorem endScan_raw (s : State) : (endScan s).raw = s.raw := rfl
@[simp] theorem endScan_win (s : State) : (endScan s).win = s.win := rfl
@[simp] theorem endScan_br (s : State) : (endScan s).br = s.br := rfl
@[simp] theorem endScan_brLive (s : State) : (endScan s).brLive = s.brLive := rfl
@[simp] theorem endScan_tFixLL (s : State) : (endScan s).tFixLL = s.tFixLL := rfl
@[simp] theorem endScan_tFixD (s : State) : (endScan s).tFixD = s.tFixD := rfl
@[simp] theorem endScan_tCl (s : State) : (endScan s).tCl = s.tCl := rfl
@[simp] theorem endScan_tLl (s : State) : (endScan s).tLl = s.tLl := rfl
@[simp] theorem endScan_tD (s : State) : (endScan s).tD = s.tD := rfl
@[simp] theorem endScan_tUser (s : State) : (endScan s).tUser = s.tUser := rfl
@[simp] theorem endScan_jdc (s : State) : (endScan s).jdc = s.jdc := rfl
@[simp] theorem endScan_jac (s : State) : (endScan s).jac = s.jac := rfl
@[simp] theorem endScan_huf (s : State) : (endScan s).huf = s.huf := rfl
@[simp] theorem endScan_inf (s : State) : (endScan s).inf = s.inf := rfl
@[simp] theorem endScan_zlb (s : State) : (endScan s).zlb = s.zlb := rfl
@[simp] theorem endScan_png (s : State) : (endScan s).png = s.png := rfl
@[simp] theorem endScan_crcT (s : State) : (endScan s).crcT = s.crcT := rfl
@[simp] theorem endScan_jdec (s : State) : (endScan s).jdec = { s.jdec with pos := s.jbr.pos, seenSos := true } := rfl
@[simp] theorem endScan_qt (s : State) : (endScan s).qt = s.qt := rfl
@[simp] theorem endScan_qtPrec (s : State) : (endScan s).qtPrec = s.qtPrec := rfl
@[simp] theorem endScan_qtDef (s : State) : (endScan s).qtDef = s.qtDef := rfl
@[simp] theorem endScan_jhuf (s : State) : (endScan s).jhuf = s.jhuf := rfl
@[simp] theorem endScan_pred (s : State) : (endScan s).pred = s.pred := rfl
@[simp] theorem endScan_coef (s : State) : (endScan s).coef = s.coef := rfl
@[simp] theorem endScan_dq (s : State) : (endScan s).dq = s.dq := rfl
@[simp] theorem endScan_samp (s : State) : (endScan s).samp = s.samp := rfl
@[simp] theorem endScan_plane (s : State) : (endScan s).plane = s.plane := rfl
@[simp] theorem endScan_jbr (s : State) : (endScan s).jbr = { s.jbr with cnt := 0 } := rfl
@[simp] theorem endScan_jbrLive (s : State) : (endScan s).jbrLive = s.jbrLive := rfl
@[simp] theorem endScan_jc (s : State) : (endScan s).jc = s.jc := rfl
@[simp] theorem endScan_point (s : State) : (endScan s).point = .jpegMarker := rfl
@[simp] theorem endScan_running (s : State) : (endScan s).running = s.running := rfl
@[simp] theorem endScan_draws (s : State) : (endScan s).draws = s.draws := rfl
@[simp] theorem endScan_host (s : State) : (endScan s).host = s.host := rfl
@[simp] theorem endScan_hostRead (s : State) : (endScan s).hostRead = s.hostRead := rfl

@[simp] theorem dropInflateTrees_cmd (s : State) : (dropInflateTrees s).cmd = s.cmd := rfl
@[simp] theorem dropInflateTrees_status (s : State) : (dropInflateTrees s).status = s.status := rfl
@[simp] theorem dropInflateTrees_errkind (s : State) : (dropInflateTrees s).errkind = s.errkind := rfl
@[simp] theorem dropInflateTrees_diag (s : State) : (dropInflateTrees s).diag = s.diag := rfl
@[simp] theorem dropInflateTrees_arg0 (s : State) : (dropInflateTrees s).arg0 = s.arg0 := rfl
@[simp] theorem dropInflateTrees_arg1 (s : State) : (dropInflateTrees s).arg1 = s.arg1 := rfl
@[simp] theorem dropInflateTrees_inBase (s : State) : (dropInflateTrees s).inBase = s.inBase := rfl
@[simp] theorem dropInflateTrees_inLen (s : State) : (dropInflateTrees s).inLen = s.inLen := rfl
@[simp] theorem dropInflateTrees_resValue (s : State) : (dropInflateTrees s).resValue = s.resValue := rfl
@[simp] theorem dropInflateTrees_resWidth (s : State) : (dropInflateTrees s).resWidth = s.resWidth := rfl
@[simp] theorem dropInflateTrees_resHeight (s : State) : (dropInflateTrees s).resHeight = s.resHeight := rfl
@[simp] theorem dropInflateTrees_resChannels (s : State) : (dropInflateTrees s).resChannels = s.resChannels := rfl
@[simp] theorem dropInflateTrees_resLen (s : State) : (dropInflateTrees s).resLen = s.resLen := rfl
@[simp] theorem dropInflateTrees_input (s : State) : (dropInflateTrees s).input = s.input := rfl
@[simp] theorem dropInflateTrees_out (s : State) : (dropInflateTrees s).out = s.out := rfl
@[simp] theorem dropInflateTrees_idat (s : State) : (dropInflateTrees s).idat = s.idat := rfl
@[simp] theorem dropInflateTrees_raw (s : State) : (dropInflateTrees s).raw = s.raw := rfl
@[simp] theorem dropInflateTrees_win (s : State) : (dropInflateTrees s).win = s.win := rfl
@[simp] theorem dropInflateTrees_br (s : State) : (dropInflateTrees s).br = s.br := rfl
@[simp] theorem dropInflateTrees_brLive (s : State) : (dropInflateTrees s).brLive = s.brLive := rfl
@[simp] theorem dropInflateTrees_tFixLL (s : State) : (dropInflateTrees s).tFixLL = s.tFixLL := rfl
@[simp] theorem dropInflateTrees_tFixD (s : State) : (dropInflateTrees s).tFixD = s.tFixD := rfl
@[simp] theorem dropInflateTrees_tCl (s : State) : (dropInflateTrees s).tCl = s.tCl.invalidate := rfl
@[simp] theorem dropInflateTrees_tLl (s : State) : (dropInflateTrees s).tLl = s.tLl.invalidate := rfl
@[simp] theorem dropInflateTrees_tD (s : State) : (dropInflateTrees s).tD = s.tD.invalidate := rfl
@[simp] theorem dropInflateTrees_tUser (s : State) : (dropInflateTrees s).tUser = s.tUser := rfl
@[simp] theorem dropInflateTrees_jdc (s : State) : (dropInflateTrees s).jdc = s.jdc := rfl
@[simp] theorem dropInflateTrees_jac (s : State) : (dropInflateTrees s).jac = s.jac := rfl
@[simp] theorem dropInflateTrees_huf (s : State) : (dropInflateTrees s).huf = s.huf := rfl
@[simp] theorem dropInflateTrees_inf (s : State) : (dropInflateTrees s).inf = s.inf := rfl
@[simp] theorem dropInflateTrees_zlb (s : State) : (dropInflateTrees s).zlb = s.zlb := rfl
@[simp] theorem dropInflateTrees_png (s : State) : (dropInflateTrees s).png = s.png := rfl
@[simp] theorem dropInflateTrees_crcT (s : State) : (dropInflateTrees s).crcT = s.crcT := rfl
@[simp] theorem dropInflateTrees_jdec (s : State) : (dropInflateTrees s).jdec = s.jdec := rfl
@[simp] theorem dropInflateTrees_qt (s : State) : (dropInflateTrees s).qt = s.qt := rfl
@[simp] theorem dropInflateTrees_qtPrec (s : State) : (dropInflateTrees s).qtPrec = s.qtPrec := rfl
@[simp] theorem dropInflateTrees_qtDef (s : State) : (dropInflateTrees s).qtDef = s.qtDef := rfl
@[simp] theorem dropInflateTrees_jhuf (s : State) : (dropInflateTrees s).jhuf = s.jhuf := rfl
@[simp] theorem dropInflateTrees_pred (s : State) : (dropInflateTrees s).pred = s.pred := rfl
@[simp] theorem dropInflateTrees_coef (s : State) : (dropInflateTrees s).coef = s.coef := rfl
@[simp] theorem dropInflateTrees_dq (s : State) : (dropInflateTrees s).dq = s.dq := rfl
@[simp] theorem dropInflateTrees_samp (s : State) : (dropInflateTrees s).samp = s.samp := rfl
@[simp] theorem dropInflateTrees_plane (s : State) : (dropInflateTrees s).plane = s.plane := rfl
@[simp] theorem dropInflateTrees_jbr (s : State) : (dropInflateTrees s).jbr = s.jbr := rfl
@[simp] theorem dropInflateTrees_jbrLive (s : State) : (dropInflateTrees s).jbrLive = s.jbrLive := rfl
@[simp] theorem dropInflateTrees_jc (s : State) : (dropInflateTrees s).jc = s.jc := rfl
@[simp] theorem dropInflateTrees_point (s : State) : (dropInflateTrees s).point = s.point := rfl
@[simp] theorem dropInflateTrees_running (s : State) : (dropInflateTrees s).running = s.running := rfl
@[simp] theorem dropInflateTrees_draws (s : State) : (dropInflateTrees s).draws = s.draws := rfl
@[simp] theorem dropInflateTrees_host (s : State) : (dropInflateTrees s).host = s.host := rfl
@[simp] theorem dropInflateTrees_hostRead (s : State) : (dropInflateTrees s).hostRead = s.hostRead := rfl

@[simp] theorem dropJpegTrees_cmd (s : State) : (dropJpegTrees s).cmd = s.cmd := rfl
@[simp] theorem dropJpegTrees_status (s : State) : (dropJpegTrees s).status = s.status := rfl
@[simp] theorem dropJpegTrees_errkind (s : State) : (dropJpegTrees s).errkind = s.errkind := rfl
@[simp] theorem dropJpegTrees_diag (s : State) : (dropJpegTrees s).diag = s.diag := rfl
@[simp] theorem dropJpegTrees_arg0 (s : State) : (dropJpegTrees s).arg0 = s.arg0 := rfl
@[simp] theorem dropJpegTrees_arg1 (s : State) : (dropJpegTrees s).arg1 = s.arg1 := rfl
@[simp] theorem dropJpegTrees_inBase (s : State) : (dropJpegTrees s).inBase = s.inBase := rfl
@[simp] theorem dropJpegTrees_inLen (s : State) : (dropJpegTrees s).inLen = s.inLen := rfl
@[simp] theorem dropJpegTrees_resValue (s : State) : (dropJpegTrees s).resValue = s.resValue := rfl
@[simp] theorem dropJpegTrees_resWidth (s : State) : (dropJpegTrees s).resWidth = s.resWidth := rfl
@[simp] theorem dropJpegTrees_resHeight (s : State) : (dropJpegTrees s).resHeight = s.resHeight := rfl
@[simp] theorem dropJpegTrees_resChannels (s : State) : (dropJpegTrees s).resChannels = s.resChannels := rfl
@[simp] theorem dropJpegTrees_resLen (s : State) : (dropJpegTrees s).resLen = s.resLen := rfl
@[simp] theorem dropJpegTrees_input (s : State) : (dropJpegTrees s).input = s.input := rfl
@[simp] theorem dropJpegTrees_out (s : State) : (dropJpegTrees s).out = s.out := rfl
@[simp] theorem dropJpegTrees_idat (s : State) : (dropJpegTrees s).idat = s.idat := rfl
@[simp] theorem dropJpegTrees_raw (s : State) : (dropJpegTrees s).raw = s.raw := rfl
@[simp] theorem dropJpegTrees_win (s : State) : (dropJpegTrees s).win = s.win := rfl
@[simp] theorem dropJpegTrees_br (s : State) : (dropJpegTrees s).br = s.br := rfl
@[simp] theorem dropJpegTrees_brLive (s : State) : (dropJpegTrees s).brLive = s.brLive := rfl
@[simp] theorem dropJpegTrees_tFixLL (s : State) : (dropJpegTrees s).tFixLL = s.tFixLL := rfl
@[simp] theorem dropJpegTrees_tFixD (s : State) : (dropJpegTrees s).tFixD = s.tFixD := rfl
@[simp] theorem dropJpegTrees_tCl (s : State) : (dropJpegTrees s).tCl = s.tCl := rfl
@[simp] theorem dropJpegTrees_tLl (s : State) : (dropJpegTrees s).tLl = s.tLl := rfl
@[simp] theorem dropJpegTrees_tD (s : State) : (dropJpegTrees s).tD = s.tD := rfl
@[simp] theorem dropJpegTrees_tUser (s : State) : (dropJpegTrees s).tUser = s.tUser := rfl
@[simp] theorem dropJpegTrees_jdc (s : State) : (dropJpegTrees s).jdc = s.jdc.map Tree.invalidate := rfl
@[simp] theorem dropJpegTrees_jac (s : State) : (dropJpegTrees s).jac = s.jac.map Tree.invalidate := rfl
@[simp] theorem dropJpegTrees_huf (s : State) : (dropJpegTrees s).huf = s.huf := rfl
@[simp] theorem dropJpegTrees_inf (s : State) : (dropJpegTrees s).inf = s.inf := rfl
@[simp] theorem dropJpegTrees_zlb (s : State) : (dropJpegTrees s).zlb = s.zlb := rfl
@[simp] theorem dropJpegTrees_png (s : State) : (dropJpegTrees s).png = s.png := rfl
@[simp] theorem dropJpegTrees_crcT (s : State) : (dropJpegTrees s).crcT = s.crcT := rfl
@[simp] theorem dropJpegTrees_jdec (s : State) : (dropJpegTrees s).jdec = s.jdec := rfl
@[simp] theorem dropJpegTrees_qt (s : State) : (dropJpegTrees s).qt = s.qt := rfl
@[simp] theorem dropJpegTrees_qtPrec (s : State) : (dropJpegTrees s).qtPrec = s.qtPrec := rfl
@[simp] theorem dropJpegTrees_qtDef (s : State) : (dropJpegTrees s).qtDef = s.qtDef := rfl
@[simp] theorem dropJpegTrees_jhuf (s : State) : (dropJpegTrees s).jhuf = s.jhuf := rfl
@[simp] theorem dropJpegTrees_pred (s : State) : (dropJpegTrees s).pred = s.pred := rfl
@[simp] theorem dropJpegTrees_coef (s : State) : (dropJpegTrees s).coef = s.coef := rfl
@[simp] theorem dropJpegTrees_dq (s : State) : (dropJpegTrees s).dq = s.dq := rfl
@[simp] theorem dropJpegTrees_samp (s : State) : (dropJpegTrees s).samp = s.samp := rfl
@[simp] theorem dropJpegTrees_plane (s : State) : (dropJpegTrees s).plane = s.plane := rfl
@[simp] theorem dropJpegTrees_jbr (s : State) : (dropJpegTrees s).jbr = s.jbr := rfl
@[simp] theorem dropJpegTrees_jbrLive (s : State) : (dropJpegTrees s).jbrLive = s.jbrLive := rfl
@[simp] theorem dropJpegTrees_jc (s : State) : (dropJpegTrees s).jc = s.jc := rfl
@[simp] theorem dropJpegTrees_point (s : State) : (dropJpegTrees s).point = s.point := rfl
@[simp] theorem dropJpegTrees_running (s : State) : (dropJpegTrees s).running = s.running := rfl
@[simp] theorem dropJpegTrees_draws (s : State) : (dropJpegTrees s).draws = s.draws := rfl
@[simp] theorem dropJpegTrees_host (s : State) : (dropJpegTrees s).host = s.host := rfl
@[simp] theorem dropJpegTrees_hostRead (s : State) : (dropJpegTrees s).hostRead = s.hostRead := rfl

@[simp] theorem discardBr_cmd (s : State) : (discardBr s).cmd = s.cmd := rfl
@[simp] theorem discardBr_status (s : State) : (discardBr s).status = s.status := rfl
@[simp] theorem discardBr_errkind (s : State) : (discardBr s).errkind = s.errkind := rfl
@[simp] theorem discardBr_diag (s : State) : (discardBr s).diag = s.diag := rfl
@[simp] theorem discardBr_arg0 (s : State) : (discardBr s).arg0 = s.arg0 := rfl
@[simp] theorem discardBr_arg1 (s : State) : (discardBr s).arg1 = s.arg1 := rfl
@[simp] theorem discardBr_inBase (s : State) : (discardBr s).inBase = s.inBase := rfl
@[simp] theorem discardBr_inLen (s : State) : (discardBr s).inLen = s.inLen := rfl
@[simp] theorem discardBr_resValue (s : State) : (discardBr s).resValue = s.resValue := rfl
@[simp] theorem discardBr_resWidth (s : State) : (discardBr s).resWidth = s.resWidth := rfl
@[simp] theorem discardBr_resHeight (s : State) : (discardBr s).resHeight = s.resHeight := rfl
@[simp] theorem discardBr_resChannels (s : State) : (discardBr s).resChannels = s.resChannels := rfl
@[simp] theorem discardBr_resLen (s : State) : (discardBr s).resLen = s.resLen := rfl
@[simp] theorem discardBr_input (s : State) : (discardBr s).input = s.input := rfl
@[simp] theorem discardBr_out (s : State) : (discardBr s).out = s.out := rfl
@[simp] theorem discardBr_idat (s : State) : (discardBr s).idat = s.idat := rfl
@[simp] theorem discardBr_raw (s : State) : (discardBr s).raw = s.raw := rfl
@[simp] theorem discardBr_win (s : State) : (discardBr s).win = s.win := rfl
@[simp] theorem discardBr_br (s : State) : (discardBr s).br = cutToInput (inLength s) (Config.br s.draws) := rfl
@[simp] theorem discardBr_brLive (s : State) : (discardBr s).brLive = s.brLive := rfl
@[simp] theorem discardBr_tFixLL (s : State) : (discardBr s).tFixLL = s.tFixLL := rfl
@[simp] theorem discardBr_tFixD (s : State) : (discardBr s).tFixD = s.tFixD := rfl
@[simp] theorem discardBr_tCl (s : State) : (discardBr s).tCl = s.tCl := rfl
@[simp] theorem discardBr_tLl (s : State) : (discardBr s).tLl = s.tLl := rfl
@[simp] theorem discardBr_tD (s : State) : (discardBr s).tD = s.tD := rfl
@[simp] theorem discardBr_tUser (s : State) : (discardBr s).tUser = s.tUser := rfl
@[simp] theorem discardBr_jdc (s : State) : (discardBr s).jdc = s.jdc := rfl
@[simp] theorem discardBr_jac (s : State) : (discardBr s).jac = s.jac := rfl
@[simp] theorem discardBr_huf (s : State) : (discardBr s).huf = s.huf := rfl
@[simp] theorem discardBr_inf (s : State) : (discardBr s).inf = s.inf := rfl
@[simp] theorem discardBr_zlb (s : State) : (discardBr s).zlb = s.zlb := rfl
@[simp] theorem discardBr_png (s : State) : (discardBr s).png = s.png := rfl
@[simp] theorem discardBr_crcT (s : State) : (discardBr s).crcT = s.crcT := rfl
@[simp] theorem discardBr_jdec (s : State) : (discardBr s).jdec = s.jdec := rfl
@[simp] theorem discardBr_qt (s : State) : (discardBr s).qt = s.qt := rfl
@[simp] theorem discardBr_qtPrec (s : State) : (discardBr s).qtPrec = s.qtPrec := rfl
@[simp] theorem discardBr_qtDef (s : State) : (discardBr s).qtDef = s.qtDef := rfl
@[simp] theorem discardBr_jhuf (s : State) : (discardBr s).jhuf = s.jhuf := rfl
@[simp] theorem discardBr_pred (s : State) : (discardBr s).pred = s.pred := rfl
@[simp] theorem discardBr_coef (s : State) : (discardBr s).coef = s.coef := rfl
@[simp] theorem discardBr_dq (s : State) : (discardBr s).dq = s.dq := rfl
@[simp] theorem discardBr_samp (s : State) : (discardBr s).samp = s.samp := rfl
@[simp] theorem discardBr_plane (s : State) : (discardBr s).plane = s.plane := rfl
@[simp] theorem discardBr_jbr (s : State) : (discardBr s).jbr = s.jbr := rfl
@[simp] theorem discardBr_jbrLive (s : State) : (discardBr s).jbrLive = s.jbrLive := rfl
@[simp] theorem discardBr_jc (s : State) : (discardBr s).jc = s.jc := rfl
@[simp] theorem discardBr_point (s : State) : (discardBr s).point = s.point := rfl
@[simp] theorem discardBr_running (s : State) : (discardBr s).running = s.running := rfl
@[simp] theorem discardBr_draws (s : State) : (discardBr s).draws = s.draws + 1 := rfl
@[simp] theorem discardBr_host (s : State) : (discardBr s).host = s.host := rfl
@[simp] theorem discardBr_hostRead (s : State) : (discardBr s).hostRead = s.hostRead := rfl

@[simp] theorem discardJbr_cmd (s : State) : (discardJbr s).cmd = s.cmd := rfl
@[simp] theorem discardJbr_status (s : State) : (discardJbr s).status = s.status := rfl
@[simp] theorem discardJbr_errkind (s : State) : (discardJbr s).errkind = s.errkind := rfl
@[simp] theorem discardJbr_diag (s : State) : (discardJbr s).diag = s.diag := rfl
@[simp] theorem discardJbr_arg0 (s : State) : (discardJbr s).arg0 = s.arg0 := rfl
@[simp] theorem discardJbr_arg1 (s : State) : (discardJbr s).arg1 = s.arg1 := rfl
@[simp] theorem discardJbr_inBase (s : State) : (discardJbr s).inBase = s.inBase := rfl
@[simp] theorem discardJbr_inLen (s : State) : (discardJbr s).inLen = s.inLen := rfl
@[simp] theorem discardJbr_resValue (s : State) : (discardJbr s).resValue = s.resValue := rfl
@[simp] theorem discardJbr_resWidth (s : State) : (discardJbr s).resWidth = s.resWidth := rfl
@[simp] theorem discardJbr_resHeight (s : State) : (discardJbr s).resHeight = s.resHeight := rfl
@[simp] theorem discardJbr_resChannels (s : State) : (discardJbr s).resChannels = s.resChannels := rfl
@[simp] theorem discardJbr_resLen (s : State) : (discardJbr s).resLen = s.resLen := rfl
@[simp] theorem discardJbr_input (s : State) : (discardJbr s).input = s.input := rfl
@[simp] theorem discardJbr_out (s : State) : (discardJbr s).out = s.out := rfl
@[simp] theorem discardJbr_idat (s : State) : (discardJbr s).idat = s.idat := rfl
@[simp] theorem discardJbr_raw (s : State) : (discardJbr s).raw = s.raw := rfl
@[simp] theorem discardJbr_win (s : State) : (discardJbr s).win = s.win := rfl
@[simp] theorem discardJbr_br (s : State) : (discardJbr s).br = s.br := rfl
@[simp] theorem discardJbr_brLive (s : State) : (discardJbr s).brLive = s.brLive := rfl
@[simp] theorem discardJbr_tFixLL (s : State) : (discardJbr s).tFixLL = s.tFixLL := rfl
@[simp] theorem discardJbr_tFixD (s : State) : (discardJbr s).tFixD = s.tFixD := rfl
@[simp] theorem discardJbr_tCl (s : State) : (discardJbr s).tCl = s.tCl := rfl
@[simp] theorem discardJbr_tLl (s : State) : (discardJbr s).tLl = s.tLl := rfl
@[simp] theorem discardJbr_tD (s : State) : (discardJbr s).tD = s.tD := rfl
@[simp] theorem discardJbr_tUser (s : State) : (discardJbr s).tUser = s.tUser := rfl
@[simp] theorem discardJbr_jdc (s : State) : (discardJbr s).jdc = s.jdc := rfl
@[simp] theorem discardJbr_jac (s : State) : (discardJbr s).jac = s.jac := rfl
@[simp] theorem discardJbr_huf (s : State) : (discardJbr s).huf = s.huf := rfl
@[simp] theorem discardJbr_inf (s : State) : (discardJbr s).inf = s.inf := rfl
@[simp] theorem discardJbr_zlb (s : State) : (discardJbr s).zlb = s.zlb := rfl
@[simp] theorem discardJbr_png (s : State) : (discardJbr s).png = s.png := rfl
@[simp] theorem discardJbr_crcT (s : State) : (discardJbr s).crcT = s.crcT := rfl
@[simp] theorem discardJbr_jdec (s : State) : (discardJbr s).jdec = s.jdec := rfl
@[simp] theorem discardJbr_qt (s : State) : (discardJbr s).qt = s.qt := rfl
@[simp] theorem discardJbr_qtPrec (s : State) : (discardJbr s).qtPrec = s.qtPrec := rfl
@[simp] theorem discardJbr_qtDef (s : State) : (discardJbr s).qtDef = s.qtDef := rfl
@[simp] theorem discardJbr_jhuf (s : State) : (discardJbr s).jhuf = s.jhuf := rfl
@[simp] theorem discardJbr_pred (s : State) : (discardJbr s).pred = s.pred := rfl
@[simp] theorem discardJbr_coef (s : State) : (discardJbr s).coef = s.coef := rfl
@[simp] theorem discardJbr_dq (s : State) : (discardJbr s).dq = s.dq := rfl
@[simp] theorem discardJbr_samp (s : State) : (discardJbr s).samp = s.samp := rfl
@[simp] theorem discardJbr_plane (s : State) : (discardJbr s).plane = s.plane := rfl
@[simp] theorem discardJbr_jbr (s : State) : (discardJbr s).jbr = { Config.jbr s.draws with pos := min (Config.jbr s.draws).pos (inLength s), cnt := min (Config.jbr s.draws).cnt 8 } := rfl
@[simp] theorem discardJbr_jbrLive (s : State) : (discardJbr s).jbrLive = s.jbrLive := rfl
@[simp] theorem discardJbr_jc (s : State) : (discardJbr s).jc = s.jc := rfl
@[simp] theorem discardJbr_point (s : State) : (discardJbr s).point = s.point := rfl
@[simp] theorem discardJbr_running (s : State) : (discardJbr s).running = s.running := rfl
@[simp] theorem discardJbr_draws (s : State) : (discardJbr s).draws = s.draws + 1 := rfl
@[simp] theorem discardJbr_host (s : State) : (discardJbr s).host = s.host := rfl
@[simp] theorem discardJbr_hostRead (s : State) : (discardJbr s).hostRead = s.hostRead := rfl

end Sys2Proof.Machine
end

