-- ==== Sys2Proof/Laws/Failure.lean ====
section
/-! SUPPORT. What a failure does (60_exceptions.md R403, R405): what it records, what it keeps, and that the state
it forgets is the call's own. -/

namespace Sys2Proof.Machine

@[simp] theorem failCall_status (k : FailKind) (s : State) : (failCall k s).status = statusFailed := rfl
@[simp] theorem failCall_errkind (k : FailKind) (s : State) : (failCall k s).errkind = k.code := rfl
@[simp] theorem failCall_diag (k : FailKind) (s : State) : (failCall k s).diag = Config.diag s.draws := rfl
@[simp] theorem failCall_out (k : FailKind) (s : State) : (failCall k s).out = Config.bytes s.draws 0 := rfl
@[simp] theorem failCall_point (k : FailKind) (s : State) : (failCall k s).point = .idle := rfl
@[simp] theorem failCall_running (k : FailKind) (s : State) : (failCall k s).running = none := rfl
@[simp] theorem failCall_draws (k : FailKind) (s : State) : (failCall k s).draws = s.draws + 1 := rfl
@[simp] theorem failCall_brLive (k : FailKind) (s : State) :
    (failCall k s).brLive = (s.brLive && !(s.running.getD .plain).usesCursor) := rfl
@[simp] theorem failCall_jbrLive (k : FailKind) (s : State) :
    (failCall k s).jbrLive = (s.jbrLive && !(s.running.getD .plain).usesCursor) := rfl
theorem forgetCall_cmd (n : Nat) (c : Call) (s : State) : (forgetCall n c s).cmd = s.cmd := by
  cases c <;> simp only [forgetCall, forgetBr, forgetInflate, forgetZlib, forgetPng, forgetBlock, forgetJbr, forgetQuant, forgetDq, forgetJpeg]
@[simp] theorem failCall_cmd (k : FailKind) (s : State) : (failCall k s).cmd = s.cmd :=
  forgetCall_cmd _ _ _
theorem forgetCall_arg0 (n : Nat) (c : Call) (s : State) : (forgetCall n c s).arg0 = s.arg0 := by
  cases c <;> simp only [forgetCall, forgetBr, forgetInflate, forgetZlib, forgetPng, forgetBlock, forgetJbr, forgetQuant, forgetDq, forgetJpeg]
@[simp] theorem failCall_arg0 (k : FailKind) (s : State) : (failCall k s).arg0 = s.arg0 :=
  forgetCall_arg0 _ _ _
theorem forgetCall_arg1 (n : Nat) (c : Call) (s : State) : (forgetCall n c s).arg1 = s.arg1 := by
  cases c <;> simp only [forgetCall, forgetBr, forgetInflate, forgetZlib, forgetPng, forgetBlock, forgetJbr, forgetQuant, forgetDq, forgetJpeg]
@[simp] theorem failCall_arg1 (k : FailKind) (s : State) : (failCall k s).arg1 = s.arg1 :=
  forgetCall_arg1 _ _ _
theorem forgetCall_inBase (n : Nat) (c : Call) (s : State) : (forgetCall n c s).inBase = s.inBase := by
  cases c <;> simp only [forgetCall, forgetBr, forgetInflate, forgetZlib, forgetPng, forgetBlock, forgetJbr, forgetQuant, forgetDq, forgetJpeg]
@[simp] theorem failCall_inBase (k : FailKind) (s : State) : (failCall k s).inBase = s.inBase :=
  forgetCall_inBase _ _ _
theorem forgetCall_inLen (n : Nat) (c : Call) (s : State) : (forgetCall n c s).inLen = s.inLen := by
  cases c <;> simp only [forgetCall, forgetBr, forgetInflate, forgetZlib, forgetPng, forgetBlock, forgetJbr, forgetQuant, forgetDq, forgetJpeg]
@[simp] theorem failCall_inLen (k : FailKind) (s : State) : (failCall k s).inLen = s.inLen :=
  forgetCall_inLen _ _ _
theorem forgetCall_input (n : Nat) (c : Call) (s : State) : (forgetCall n c s).input = s.input := by
  cases c <;> simp only [forgetCall, forgetBr, forgetInflate, forgetZlib, forgetPng, forgetBlock, forgetJbr, forgetQuant, forgetDq, forgetJpeg]
@[simp] theorem failCall_input (k : FailKind) (s : State) : (failCall k s).input = s.input :=
  forgetCall_input _ _ _
theorem forgetCall_tFixLL (n : Nat) (c : Call) (s : State) : (forgetCall n c s).tFixLL = s.tFixLL := by
  cases c <;> simp only [forgetCall, forgetBr, forgetInflate, forgetZlib, forgetPng, forgetBlock, forgetJbr, forgetQuant, forgetDq, forgetJpeg]
@[simp] theorem failCall_tFixLL (k : FailKind) (s : State) : (failCall k s).tFixLL = s.tFixLL :=
  forgetCall_tFixLL _ _ _
theorem forgetCall_tFixD (n : Nat) (c : Call) (s : State) : (forgetCall n c s).tFixD = s.tFixD := by
  cases c <;> simp only [forgetCall, forgetBr, forgetInflate, forgetZlib, forgetPng, forgetBlock, forgetJbr, forgetQuant, forgetDq, forgetJpeg]
@[simp] theorem failCall_tFixD (k : FailKind) (s : State) : (failCall k s).tFixD = s.tFixD :=
  forgetCall_tFixD _ _ _
theorem forgetCall_tUser (n : Nat) (c : Call) (s : State) : (forgetCall n c s).tUser = s.tUser := by
  cases c <;> simp only [forgetCall, forgetBr, forgetInflate, forgetZlib, forgetPng, forgetBlock, forgetJbr, forgetQuant, forgetDq, forgetJpeg]
@[simp] theorem failCall_tUser (k : FailKind) (s : State) : (failCall k s).tUser = s.tUser :=
  forgetCall_tUser _ _ _
theorem forgetCall_crcT (n : Nat) (c : Call) (s : State) : (forgetCall n c s).crcT = s.crcT := by
  cases c <;> simp only [forgetCall, forgetBr, forgetInflate, forgetZlib, forgetPng, forgetBlock, forgetJbr, forgetQuant, forgetDq, forgetJpeg]
@[simp] theorem failCall_crcT (k : FailKind) (s : State) : (failCall k s).crcT = s.crcT :=
  forgetCall_crcT _ _ _
theorem forgetCall_host (n : Nat) (c : Call) (s : State) : (forgetCall n c s).host = s.host := by
  cases c <;> simp only [forgetCall, forgetBr, forgetInflate, forgetZlib, forgetPng, forgetBlock, forgetJbr, forgetQuant, forgetDq, forgetJpeg]
@[simp] theorem failCall_host (k : FailKind) (s : State) : (failCall k s).host = s.host :=
  forgetCall_host _ _ _
theorem forgetCall_hostRead (n : Nat) (c : Call) (s : State) : (forgetCall n c s).hostRead = s.hostRead := by
  cases c <;> simp only [forgetCall, forgetBr, forgetInflate, forgetZlib, forgetPng, forgetBlock, forgetJbr, forgetQuant, forgetDq, forgetJpeg]
@[simp] theorem failCall_hostRead (k : FailKind) (s : State) : (failCall k s).hostRead = s.hostRead :=
  forgetCall_hostRead _ _ _
theorem forgetCall_jc (n : Nat) (c : Call) (s : State) : (forgetCall n c s).jc = s.jc := by
  cases c <;> simp only [forgetCall, forgetBr, forgetInflate, forgetZlib, forgetPng, forgetBlock, forgetJbr, forgetQuant, forgetDq, forgetJpeg]
@[simp] theorem failCall_jc (k : FailKind) (s : State) : (failCall k s).jc = s.jc :=
  forgetCall_jc _ _ _

/-- A failure raised at a state that still has the call's host things is a failure of the call (R403, R405). -/
theorem failedFrom_failCall {k : FailKind} {s u : State} (hk : s.KeepsHost u) (h1 : u.tFixLL = s.tFixLL)
    (h2 : u.tFixD = s.tFixD) (h3 : u.crcT = s.crcT) (h4 : u.tUser = s.tUser) :
    s.FailedFrom (failCall k u) k := by
  obtain ⟨a, b, c, d, e, f, g, h⟩ := hk
  refine ⟨rfl, rfl, rfl, rfl, ?_, by simp [h1], by simp [h2], by simp [h3], by simp [h4]⟩
  refine ⟨?_, ?_, ?_, ?_, ?_, ?_, ?_, ?_⟩ <;> simp [*]

/-- The BR cursor is forgotten only by a call that uses a cursor. -/
theorem failCall_br_kept (k : FailKind) (s : State) (h : (s.running.getD .plain).usesCursor = false) :
    (failCall k s).br = s.br := by
  unfold failCall
  cases hc : s.running.getD .plain <;> rw [hc] at h <;> simp [Call.usesCursor] at h <;>
    simp only [forgetCall, forgetQuant, forgetDq]

/-- The JBR cursor is forgotten only by a call that uses a cursor. -/
theorem failCall_jbr_kept (k : FailKind) (s : State) (h : (s.running.getD .plain).usesCursor = false) :
    (failCall k s).jbr = s.jbr := by
  unfold failCall
  cases hc : s.running.getD .plain <;> rw [hc] at h <;> simp [Call.usesCursor] at h <;>
    simp only [forgetCall, forgetQuant, forgetDq]

end Sys2Proof.Machine
end

