-- ==== Sys2Proof/Laws/Memory.lean ====
section
/-! SUPPORT. The laws of cell memory: read after write, and that every operation keeps the canonical form. -/

namespace Sys2Proof.Machine

theorem Memory.wfFrom_cons (lo a : Nat) (v : Byte) (m : Memory) :
    Memory.wfFrom lo ((a, v) :: m) = true ↔ lo ≤ a ∧ v ≠ 0#8 ∧ Memory.wfFrom (a + 1) m = true := by
  simp [Memory.wfFrom, and_assoc]

theorem Memory.wfFrom_mono {lo lo' : Nat} (h : lo' ≤ lo) {m : Memory} (hm : Memory.wfFrom lo m = true) :
    Memory.wfFrom lo' m = true := by
  cases m with
  | nil => rfl
  | cons c m =>
    obtain ⟨a, v⟩ := c
    rw [Memory.wfFrom_cons] at hm ⊢
    exact ⟨Nat.le_trans h hm.1, hm.2⟩

theorem Memory.read_below {lo a : Nat} {m : Memory} (hm : Memory.wfFrom lo m = true) (h : a < lo) :
    Memory.read m a = 0#8 := by
  induction m generalizing lo with
  | nil => rfl
  | cons c m ih =>
    obtain ⟨b, v⟩ := c
    rw [Memory.wfFrom_cons] at hm
    have hne : b ≠ a := by omega
    simp only [Memory.read, hne, if_false]
    exact ih hm.2.2 (by omega)

theorem Memory.wfFrom_write {lo a : Nat} {v : Byte} {m : Memory} (hm : Memory.wfFrom lo m = true) (ha : lo ≤ a) :
    Memory.wfFrom lo (Memory.write m a v) = true := by
  induction m generalizing lo with
  | nil =>
    unfold Memory.write
    split
    · rfl
    · rename_i h; exact (Memory.wfFrom_cons ..).2 ⟨ha, h, rfl⟩
  | cons c m ih =>
    obtain ⟨b, w⟩ := c
    have hm' := (Memory.wfFrom_cons ..).1 hm
    unfold Memory.write
    split
    · split
      · exact hm
      · rename_i h1 h2
        exact (Memory.wfFrom_cons ..).2 ⟨ha, h2, (Memory.wfFrom_cons ..).2 ⟨h1, hm'.2⟩⟩
    · split
      · split
        · exact Memory.wfFrom_mono (by omega) hm'.2.2
        · rename_i h1 h2 h3
          exact (Memory.wfFrom_cons ..).2 ⟨ha, h3, by rw [h2]; exact hm'.2.2⟩
      · rename_i h1 h2
        exact (Memory.wfFrom_cons ..).2 ⟨hm'.1, hm'.2.1, ih hm'.2.2 (by omega)⟩

/-- A write keeps the canonical form. -/
theorem Memory.wf_write {m : Memory} (hm : Memory.wf m = true) (a : Nat) (v : Byte) :
    Memory.wf (Memory.write m a v) = true :=
  Memory.wfFrom_write hm (Nat.zero_le a)

/-- Writing a run of bytes keeps the canonical form. -/
theorem Memory.wf_writeAll {m : Memory} (hm : Memory.wf m = true) (a : Nat) (vs : List Byte) :
    Memory.wf (Memory.writeAll m a vs) = true := by
  induction vs generalizing m a with
  | nil => exact hm
  | cons v vs ih => exact ih (Memory.wf_write hm a v) (a + 1)

theorem Memory.wfFrom_filterMap (f : Nat → Byte) (lo n : Nat) :
    Memory.wfFrom lo ((List.range' lo n).filterMap fun a => if f a = 0#8 then none else some (a, f a)) = true := by
  induction n generalizing lo with
  | zero => rfl
  | succ n ih =>
    rw [List.range'_succ]
    simp only [List.filterMap_cons]
    split
    · exact Memory.wfFrom_mono (Nat.le_succ lo) (ih (lo + 1))
    · rename_i b hb
      split at hb
      · cases hb
      · rename_i h
        cases hb
        exact (Memory.wfFrom_cons ..).2 ⟨Nat.le_refl _, h, ih (lo + 1)⟩

/-- A memory built from a function is in canonical form. -/
theorem Memory.wf_ofFn (f : Nat → Byte) (n : Nat) : Memory.wf (Memory.ofFn f n) = true := by
  unfold Memory.ofFn Memory.wf
  rw [List.range_eq_range']
  exact Memory.wfFrom_filterMap f 0 n

theorem Memory.read_write_from {lo a : Nat} {v : Byte} {m : Memory} (hm : Memory.wfFrom lo m = true) :
    Memory.read (Memory.write m a v) a = v := by
  induction m generalizing lo with
  | nil => unfold Memory.write; split <;> simp_all [Memory.read]
  | cons c m ih =>
    obtain ⟨b, w⟩ := c
    have hm' := (Memory.wfFrom_cons ..).1 hm
    unfold Memory.write
    split
    · split
      · rename_i h1 h2
        have : Memory.read ((b, w) :: m) a = 0#8 :=
          Memory.read_below (lo := b) ((Memory.wfFrom_cons ..).2 ⟨Nat.le_refl _, hm'.2⟩) h1
        rw [this, h2]
      · simp [Memory.read]
    · split
      · split
        · rename_i h1 h2 h3
          rw [Memory.read_below hm'.2.2 (by omega), h3]
        · simp [Memory.read]
      · rename_i h1 h2
        have hne : b ≠ a := by omega
        simp only [Memory.read, hne, if_false]
        exact ih hm'.2.2

/-- Reading the address just written gives the value written. -/
theorem Memory.read_write_same {m : Memory} (hm : Memory.wf m = true) (a : Nat) (v : Byte) :
    Memory.read (Memory.write m a v) a = v :=
  Memory.read_write_from hm

/-- Reading another address gives what was there. -/
theorem Memory.read_write_other {a b : Nat} (h : b ≠ a) (m : Memory) (v : Byte) :
    Memory.read (Memory.write m a v) b = Memory.read m b := by
  induction m with
  | nil => unfold Memory.write; split <;> simp [Memory.read, h.symm]
  | cons c m ih =>
    obtain ⟨x, w⟩ := c
    unfold Memory.write
    split
    · split
      · rfl
      · simp [Memory.read, h.symm]
    · split
      · rename_i h1 h2
        have hx : x ≠ b := fun e => h (by rw [← e, h2])
        split
        · simp [Memory.read, hx]
        · simp [Memory.read, h.symm, hx]
      · simp only [Memory.read, ih]

end Sys2Proof.Machine
end

