-- ==== Sys2Proof/Laws/Ops.lean ====
section
/-! SUPPORT. What each shared operation can do, said once. -/

namespace Sys2Proof.Machine

/-! Outcomes. -/

/-- A guarded command answers a next state only when it is taken. -/
theorem whenIdle_next {s t : State} {k : Out} (h : whenIdle s k = .next t) : s.Ready ∧ k = .next t := by
  unfold whenIdle at h
  split at h
  · rename_i hr; exact ⟨hr, h⟩
  · cases h

/-- A command that is taken does what its body does. -/
theorem whenIdle_ready {s : State} (h : s.Ready) (k : Out) : whenIdle s k = k := if_pos h

/-- A command is refused while a call runs (U16). -/
theorem whenIdle_busy {s : State} (h : ¬ s.Ready) (k : Out) : whenIdle s k = .refused .commandWhileBusy := if_neg h

theorem whenBrLive_next {s t : State} {k : Out} (h : whenBrLive s k = .next t) : s.brLive = true ∧ k = .next t := by
  unfold whenBrLive at h
  split at h
  · rename_i hr; exact ⟨hr, h⟩
  · cases h

theorem whenBitCount_next {s t : State} {k : Out} (h : whenBitCount s k = .next t) :
    (1 ≤ s.arg0.toNat ∧ s.arg0.toNat ≤ 32) ∧ k = .next t := by
  unfold whenBitCount at h
  split at h
  · rename_i hr; exact ⟨hr, h⟩
  · cases h

/-- How a result that can fail answers a next state: it went on, or the failure was taken. -/
theorem Res.run_next {α : Type} {x : Res α} {f : α → State → Out} {t : State} (h : x.run f = .next t) :
    (∃ a u, x = .ok a u ∧ f a u = .next t) ∨ (∃ k u, x = .fail k u ∧ t = failCall k u) := by
  cases x with
  | ok a u => exact .inl ⟨a, u, rfl, h⟩
  | fail k u => exact .inr ⟨k, u, rfl, by simpa [Res.run, raise] using h.symm⟩

/-- How two operations in a row succeed. -/
theorem Res.bind_ok {α β : Type} {x : Res α} {f : α → State → Res β} {b : β} {t : State} (h : x.bind f = .ok b t) :
    ∃ a u, x = .ok a u ∧ f a u = .ok b t := by
  cases x with
  | ok a u => exact ⟨a, u, rfl, h⟩
  | fail k u => cases h

theorem unlessFail_next {checks : List (Bool × FailKind)} {s t : State} {k : Out}
    (h : unlessFail checks s k = .next t) :
    (firstFail checks = none ∧ k = .next t) ∨ (∃ kind, firstFail checks = some kind ∧ t = failCall kind s) := by
  unfold unlessFail at h
  split at h
  · rename_i kind hk; exact .inr ⟨kind, hk, by simpa [raise] using h.symm⟩
  · rename_i hk; exact .inl ⟨hk, h⟩

theorem firstFail_cons_false {c : Bool} (hc : c = false) (k : FailKind) (rest : List (Bool × FailKind)) :
    firstFail ((c, k) :: rest) = firstFail rest := by
  simp [firstFail, hc]

/-! Reads. -/

theorem readBits_ok {n v : Nat} {s t : State} (h : readBits n s = .ok v t) :
    n ≤ brUnread s ∧ v = bitsLsb s (brPos s) n ∧ t = brSeek (brPos s + n) s := by
  unfold readBits at h
  split at h
  · cases h
  · injection h with h1 h2; exact ⟨by omega, h1.symm, h2.symm⟩

theorem readBits_of_le {n : Nat} {s : State} (h : n ≤ brUnread s) :
    readBits n s = .ok (bitsLsb s (brPos s) n) (brSeek (brPos s + n) s) :=
  if_neg (by omega)

theorem readBits_short {n : Nat} {s : State} (h : brUnread s < n) : readBits n s = .fail .truncatedStream s := if_pos h

theorem readBits_fail {n : Nat} {k : FailKind} {s t : State} (h : readBits n s = .fail k t) :
    k = .truncatedStream ∧ t = s := by
  unfold readBits at h
  split at h
  · injection h with h1 h2; exact ⟨h1.symm, h2.symm⟩
  · cases h

theorem readBitsReversed_ok {n v : Nat} {s t : State} (h : readBitsReversed n s = .ok v t) :
    n ≤ brUnread s ∧ v = bitsMsb s (brPos s) n ∧ t = brSeek (brPos s + n) s := by
  unfold readBitsReversed at h
  split at h
  · cases h
  · injection h with h1 h2; exact ⟨by omega, h1.symm, h2.symm⟩

theorem readBitsReversed_fail {n : Nat} {k : FailKind} {s t : State} (h : readBitsReversed n s = .fail k t) :
    k = .truncatedStream ∧ t = s := by
  unfold readBitsReversed at h
  split at h
  · injection h with h1 h2; exact ⟨h1.symm, h2.symm⟩
  · cases h

theorem extraBits_ok {n v : Nat} {s t : State} (h : extraBits n s = .ok v t) :
    (n = 0 ∧ v = 0 ∧ t = s) ∨ (n ≠ 0 ∧ readBits n s = .ok v t) := by
  unfold extraBits at h
  split at h
  · rename_i hn; injection h with h1 h2; exact .inl ⟨hn, h1.symm, h2.symm⟩
  · rename_i hn; exact .inr ⟨hn, h⟩

theorem extraBits_fail {n : Nat} {k : FailKind} {s t : State} (h : extraBits n s = .fail k t) :
    k = .truncatedStream ∧ t = s := by
  unfold extraBits at h
  split at h
  · cases h
  · exact readBits_fail h

/-- A value of `n` bits is below `2^n`. -/
theorem bitsLsb_lt (s : State) (p n : Nat) : bitsLsb s p n < 2 ^ n := by
  induction n generalizing p with
  | zero => simp [bitsLsb]
  | succ n ih =>
    have h := ih (p + 1)
    have hb := Bool.toNat_le (brBit s p)
    simp only [bitsLsb, Nat.pow_succ]
    omega

theorem bitsMsb_lt (s : State) (p n : Nat) : bitsMsb s p n < 2 ^ n := by
  induction n generalizing p with
  | zero => simp [bitsMsb]
  | succ n ih =>
    have h := ih (p + 1)
    simp only [bitsMsb, Nat.pow_succ]
    cases brBit s p <;> simp <;> omega

/-- A read value bit by bit (R142). -/
theorem bitsLsb_testBit (s : State) (p n i : Nat) :
    (bitsLsb s p n).testBit i = (decide (i < n) && brBit s (p + i)) := by
  induction n generalizing p i with
  | zero => simp [bitsLsb]
  | succ n ih =>
    cases i with
    | zero => cases h : brBit s p <;> simp [bitsLsb, Nat.testBit_zero, h]
    | succ i =>
      have hd : ((brBit s p).toNat + 2 * bitsLsb s (p + 1) n) / 2 = bitsLsb s (p + 1) n := by
        have := Bool.toNat_le (brBit s p); omega
      rw [bitsLsb, Nat.testBit_succ, hd, ih, show p + 1 + i = p + (i + 1) by omega]
      simp

/-- The new position after a seek (R141). -/
theorem brPos_brSeek (p : Nat) (s : State) : brPos (brSeek p s) = p := by
  simp only [brPos, brSeek, BitVec.toNat_ofNat]
  omega

theorem brBit_brSeek (p : Nat) (s : State) : brBit (brSeek p s) = brBit s := rfl

theorem bitsLsb_brSeek (p q n : Nat) (s : State) : bitsLsb (brSeek p s) q n = bitsLsb s q n := by
  induction n generalizing q with
  | zero => rfl
  | succ n ih => simp only [bitsLsb, brBit_brSeek, ih]

/-- A read value depends only on the bits of the buffer. -/
theorem bitsLsb_congr {s t : State} (h : brBit s = brBit t) (p n : Nat) : bitsLsb s p n = bitsLsb t p n := by
  induction n generalizing p with
  | zero => rfl
  | succ n ih => simp only [bitsLsb, h, ih]

theorem bitsMsb_congr {s t : State} (h : brBit s = brBit t) (p n : Nat) : bitsMsb s p n = bitsMsb t p n := by
  induction n generalizing p with
  | zero => rfl
  | succ n ih => simp only [bitsMsb, h, ih]

/-- A reversed value bit by bit (R144). -/
theorem bitsMsb_testBit (s : State) (p n i : Nat) :
    (bitsMsb s p n).testBit i = (decide (i < n) && brBit s (p + (n - 1 - i))) := by
  induction n generalizing p with
  | zero => simp [bitsMsb]
  | succ n ih =>
    rw [bitsMsb, Nat.mul_comm, Nat.testBit_two_pow_mul_add _ (bitsMsb_lt s (p + 1) n)]
    split
    · rename_i h
      rw [ih, show p + 1 + (n - 1 - i) = p + (n + 1 - 1 - i) by omega]
      simp [h]; omega
    · rename_i h
      by_cases hi : i = n
      · subst hi; simp; cases brBit s p <;> simp
      · have hb : (brBit s p).toNat < 2 ^ (i - n) := by
          have := Bool.toNat_le (brBit s p)
          have : 2 ^ 1 ≤ 2 ^ (i - n) := Nat.pow_le_pow_right (by omega) (by omega)
          omega
        rw [Nat.testBit_lt_two_pow hb]
        simp [show ¬ i < n + 1 by omega]

/-- Placing the cursor where it is changes nothing (R141). -/
theorem brSeek_self (s : State) : brSeek (brPos s) s = s := by
  have h := s.br.bitPos.isLt
  have h1 : (8 * s.br.bytePos + s.br.bitPos.toNat) / 8 = s.br.bytePos := by omega
  have h2 : BitVec.ofNat 3 (8 * s.br.bytePos + s.br.bitPos.toNat) = s.br.bitPos := by
    apply BitVec.eq_of_toNat_eq; simp; omega
  rw [brSeek, brPos, h1, h2]

/-- Alignment rounds the position up to a whole byte (R145). -/
theorem alignToByte_eq (s : State) :
    alignToByte s = { s with br := { s.br with bytePos := (brPos s + 7) / 8, bitPos := 0#3 } } := by
  have hl := s.br.bitPos.isLt
  unfold alignToByte brPos
  split
  · rename_i h
    have : (8 * s.br.bytePos + s.br.bitPos.toNat + 7) / 8 = s.br.bytePos := by rw [h]; simp; omega
    rw [this, ← h]
  · rename_i h
    have : s.br.bitPos.toNat ≠ 0 := fun h0 => h (BitVec.eq_of_toNat_eq (by simpa using h0))
    rw [show (8 * s.br.bytePos + s.br.bitPos.toNat + 7) / 8 = s.br.bytePos + 1 by omega]

/-- How far a walk can go: at least one bit, at most the bits it was given. -/
theorem walkTree_leaf {nodes : List Node} {bit : Nat → Bool} {fuel n p sym q : Nat}
    (h : walkTree nodes bit fuel n p = .leaf sym q) : p < q ∧ q ≤ p + fuel := by
  induction fuel generalizing n p with
  | zero => cases h
  | succ fuel ih =>
    unfold walkTree at h
    split at h
    · cases h
    · split at h
      · cases h
      · split at h
        · injection h with h1 h2; omega
        · have := ih h; omega

theorem decodeSymbol_ok {t : Tree} {v : Nat} {s u : State} (h : decodeSymbol t s = .ok v u) :
    ∃ p, walkTree t.nodes (brBit s) (brUnread s) 0 (brPos s) = .leaf v p ∧ u = brSeek p s ∧
      brPos s < p ∧ p ≤ brPos s + brUnread s := by
  unfold decodeSymbol at h
  split at h
  · rename_i sym p hw
    injection h with h1 h2
    subst h1
    exact ⟨p, hw, h2.symm, walkTree_leaf hw⟩
  · cases h
  · cases h

theorem decodeSymbol_fail {t : Tree} {k : FailKind} {s u : State} (h : decodeSymbol t s = .fail k u) :
    u = s ∨ ∃ p, u = brSeek p s := by
  unfold decodeSymbol at h
  split at h
  · cases h
  · rename_i p hw; injection h with h1 h2; exact .inr ⟨p, h2.symm⟩
  · injection h with h1 h2; exact .inl h2.symm

/-- A JPEG read moves the JBR cursor only. -/
theorem receive_ok {n v : Nat} {s t : State} (h : receive n s = .ok v t) : ∃ j, t = { s with jbr := j } := by
  unfold receive at h
  split at h
  · injection h with h1 h2; exact ⟨_, h2.symm⟩
  · cases h

theorem receive_fail {n : Nat} {k : FailKind} {s t : State} (h : receive n s = .fail k t) :
    k = .truncatedStream ∧ t = s := by
  unfold receive at h
  split at h
  · cases h
  · injection h with h1 h2; exact ⟨h1.symm, h2.symm⟩

theorem jdecode_ok {t : Tree} {v : Nat} {s u : State} (h : jdecode t s = .ok v u) : ∃ j, u = { s with jbr := j } := by
  unfold jdecode at h
  split at h
  · injection h with h1 h2; exact ⟨_, h2.symm⟩
  · cases h
  · cases h

theorem segment_ok {payload : List Byte} {s t : State} (h : segment s = .ok payload t) :
    2 ≤ inLength s - s.jdec.pos ∧ 2 ≤ be16 (inByte s s.jdec.pos) (inByte s (s.jdec.pos + 1)) ∧
      be16 (inByte s s.jdec.pos) (inByte s (s.jdec.pos + 1)) ≤ inLength s - s.jdec.pos ∧
      payload = inBytes s (s.jdec.pos + 2) (be16 (inByte s s.jdec.pos) (inByte s (s.jdec.pos + 1)) - 2) ∧
      t = { s with jdec := { s.jdec with
        pos := s.jdec.pos + be16 (inByte s s.jdec.pos) (inByte s (s.jdec.pos + 1)) } } := by
  unfold segment at h
  simp only at h
  split at h
  · cases h
  · split at h
    · cases h
    · split at h
      · cases h
      · injection h with h1 h2
        exact ⟨by omega, by omega, by omega, h1.symm, h2.symm⟩

/-- A failed segment leaves the state as it was. -/
theorem segment_fail {k : FailKind} {s t : State} (h : segment s = .fail k t) : t = s := by
  unfold segment at h
  simp only at h
  split at h
  · injection h with _ h2; exact h2.symm
  · split at h
    · injection h with _ h2; exact h2.symm
    · split at h
      · injection h with _ h2; exact h2.symm
      · cases h

/-- A dequantization writes `DQ` only. -/
theorem dequantize_ok {t : Nat} {s u : State} (h : dequantize t s = .ok () u) :
    quantDefined s t = true ∧ u = { s with dq := (List.range 64).map (dequantValue s t) } := by
  unfold dequantize at h
  split at h
  · cases h
  · rename_i hc
    injection h with _ h2
    simp only [not_or] at hc
    exact ⟨by simpa using hc.1, h2.symm⟩

theorem dequantize_fail {t : Nat} {k : FailKind} {s u : State} (h : dequantize t s = .fail k u) :
    k = .invalidTable ∧ u = s := by
  unfold dequantize at h
  split at h
  · injection h with h1 h2; exact ⟨h1.symm, h2.symm⟩
  · cases h

/-! Output. -/

theorem emitAll_out (vs : List Byte) (s : State) : (emitAll vs s).out = s.out ++ vs := by
  induction vs generalizing s with
  | nil => simp [emitAll]
  | cons v vs ih => simp [emitAll, ih]

theorem emitAll_produced (vs : List Byte) (s : State) : (emitAll vs s).inf.produced = s.inf.produced + vs.length := by
  induction vs generalizing s with
  | nil => rfl
  | cons v vs ih => simp only [emitAll, ih, emit_inf, List.length_cons]; omega

theorem copyBack_length (d n : Nat) (s : State) : (copyBack d n s).out.length = s.out.length + n := by
  induction n generalizing s with
  | zero => rfl
  | succ n ih => simp only [copyBack, ih, emit_out, List.length_append, List.length_singleton]; omega

/-! The end of a whole-stream call (R443). -/

/-- A cursor cut to the input is one R24 allows, whatever was drawn. -/
theorem cutToInput_inside (len : Nat) (b : Br) : (cutToInput len b).Inside len := by
  unfold cutToInput Br.Inside; dsimp only
  refine ⟨rfl, by omega, by omega, fun h => ?_⟩
  split at h
  · assumption
  · exact absurd rfl h

/-- The end of `INF_DECOMPRESS`, as statements say it. -/
theorem endInflate_eq (s : State) : endInflate s = s.endedInflate := rfl

/-- The end of `ZLB_DECOMPRESS` and `PNG_DECODE`, as statements say it. -/
theorem endZlib_eq (s : State) : ∃ b : Br, b.Inside (inLength s) ∧ endZlib s = s.endedZlib b :=
  ⟨_, cutToInput_inside _ _, rfl⟩

/-- The end of `JPEG_DECODE`, as statements say it. -/
theorem endJpeg_eq (s : State) :
    ∃ (b : Br) (j : Jbr), b.Inside (inLength s) ∧ j.Inside (inLength s) ∧ endJpeg s = s.endedJpeg b j :=
  ⟨_, _, cutToInput_inside _ _, ⟨Nat.min_le_right _ _, Nat.min_le_right _ _⟩, rfl⟩

end Sys2Proof.Machine
end

