-- ==== Sys2Proof/Laws/Frames.lean ====
section
/-! SUPPORT. Frames: what each shared operation with a loop, a read or a branch inside leaves as it was, and for the
ends of blocks what they can do. A step proof cites these and unfolds none of the loops. -/

namespace Sys2Proof.Machine

/-- Emitting bytes changes `OUT`, the window and the INF counters only (R215). -/
theorem emitAll_frame (vs : List Byte) (s : State) : ∃ o w i, emitAll vs s = { s with out := o, win := w, inf := i } ∧ (Memory.wf s.win = true → Memory.wf w = true) := by
  induction vs generalizing s with
  | nil => exact ⟨_, _, _, rfl, id⟩
  | cons v vs ih => obtain ⟨o, w, i, h, hw⟩ := ih (emit v s); exact ⟨o, w, i, by rw [emitAll, h]; rfl, fun hh => hw (Memory.wf_write hh _ _)⟩

/-- A match copy changes `OUT`, the window and the INF counters only (R219). -/
theorem copyBack_frame (d n : Nat) (s : State) : ∃ o w i, copyBack d n s = { s with out := o, win := w, inf := i } ∧ (Memory.wf s.win = true → Memory.wf w = true) := by
  induction n generalizing s with
  | zero => exact ⟨_, _, _, rfl, id⟩
  | succ n ih => obtain ⟨o, w, i, h, hw⟩ := ih (emit (windowByte s d) s); exact ⟨o, w, i, by rw [copyBack, h]; rfl, fun hh => hw (Memory.wf_write hh _ _)⟩

/-- A bit read moves the BR cursor only (R142). -/
theorem readBits_frame {n s v t} (h : readBits n s = .ok v t) : ∃ b, t = { s with br := b } := by obtain ⟨_, _, h⟩ := readBits_ok h; exact ⟨_, h⟩

/-- A reversed bit read moves the BR cursor only (R144). -/
theorem readBitsReversed_frame {n s v t} (h : readBitsReversed n s = .ok v t) : ∃ b, t = { s with br := b } := by obtain ⟨_, _, h⟩ := readBitsReversed_ok h; exact ⟨_, h⟩

/-- A byte read moves the BR cursor only (R146). -/
theorem readBytes_frame {n s v t} (h : readBytes n s = .ok v t) : ∃ b, t = { s with br := b } := by
  unfold readBytes at h; dsimp only at h; split at h
  · cases h
  · injection h with h1 h2; exact ⟨_, h2.symm.trans (by rw [alignToByte_eq])⟩

/-- A failed byte read has aligned the BR cursor at most (R146). -/
theorem readBytes_fail_frame {n s k t} (h : readBytes n s = .fail k t) : ∃ b, t = { s with br := b } := by
  unfold readBytes at h; dsimp only at h; split at h
  · injection h with h1 h2; exact ⟨_, h2.symm.trans (alignToByte_eq s)⟩
  · cases h

/-- Extra bits move the BR cursor only (R118). -/
theorem extraBits_frame {n s v t} (h : extraBits n s = .ok v t) : ∃ b, t = { s with br := b } := by
  rcases extraBits_ok h with ⟨_, _, h⟩ | ⟨_, h⟩
  · exact ⟨s.br, h⟩
  · exact readBits_frame h

/-- How a bind fails. -/
theorem Res.bind_fail {α β : Type} {x : Res α} {f : α → State → Res β} {k} {t : State} (h : x.bind f = .fail k t) :
    x = .fail k t ∨ ∃ a u, x = .ok a u ∧ f a u = .fail k t := by
  cases x with
  | ok a u => exact .inr ⟨a, u, rfl, h⟩
  | fail k u => injection h with h1 h2; subst h1 h2; exact .inl rfl

/-- The code-length fields move the BR cursor only (R201). -/
theorem readClenFields_frame {n s v t} (h : readClenFields n s = .ok v t) : ∃ b, t = { s with br := b } := by
  induction n generalizing s v t with
  | zero => injection h with _ h; exact ⟨s.br, h.symm⟩
  | succ n ih =>
    rw [readClenFields] at h
    obtain ⟨a, u, h1, h2⟩ := Res.bind_ok h
    obtain ⟨a', u', h3, h4⟩ := Res.bind_ok h2
    obtain ⟨b, rfl⟩ := readBits_frame h1
    obtain ⟨b, rfl⟩ := ih h3
    injection h4 with _ h4; exact ⟨b, h4.symm⟩

/-- Also where they fail. -/
theorem readClenFields_fail_frame {n s k t} (h : readClenFields n s = .fail k t) : ∃ b, t = { s with br := b } := by
  induction n generalizing s t k with
  | zero => cases h
  | succ n ih =>
    rw [readClenFields] at h
    rcases Res.bind_fail h with h | ⟨a, u, h1, h2⟩
    · exact ⟨s.br, (readBits_fail h).2⟩
    · obtain ⟨b, rfl⟩ := readBits_frame h1
      rcases Res.bind_fail h2 with h | ⟨a', u', h3, h4⟩
      · obtain ⟨b', hb⟩ := ih h; exact ⟨b', hb⟩
      · cases h4

/-- A symbol read moves the BR cursor only (R170). -/
theorem decodeSymbol_frame {t s v u} (h : decodeSymbol t s = .ok v u) : ∃ b, u = { s with br := b } := by obtain ⟨p, _, h, _⟩ := decodeSymbol_ok h; exact ⟨_, h⟩

/-- Also where it fails. -/
theorem decodeSymbol_fail_frame {t s k u} (h : decodeSymbol t s = .fail k u) : ∃ b, u = { s with br := b } := by
  rcases decodeSymbol_fail h with h | ⟨p, h⟩
  · exact ⟨s.br, h⟩
  · exact ⟨_, h⟩

/-- A failed JPEG symbol read has moved the JBR cursor at most (R307). -/
theorem jdecode_fail_frame {t s k u} (h : jdecode t s = .fail k u) : ∃ b, u = { s with jbr := b } := by
  unfold jdecode at h; split at h
  · cases h
  · injection h with _ h; exact ⟨_, h.symm⟩
  · injection h with _ h; exact ⟨s.jbr, h.symm⟩

/-- A DQT payload changes the quantization tables only (R368). -/
theorem loadQuantTables_frame {f p s t} (h : loadQuantTables f p s = .ok () t) : ∃ a b c, t = { s with qt := a, qtPrec := b, qtDef := c } := by
  induction f generalizing p s with
  | zero => unfold loadQuantTables at h; injection h with _ h; exact ⟨s.qt, s.qtPrec, s.qtDef, h.symm⟩
  | succ f ih =>
    cases p with
    | nil => unfold loadQuantTables at h; injection h with _ h; exact ⟨s.qt, s.qtPrec, s.qtDef, h.symm⟩
    | cons x p =>
      unfold loadQuantTables at h; dsimp only at h; generalize (if (highNibble x == 1) = true then 128 else 64) = sz at h; split at h
      · cases h
      · obtain ⟨a, u, h1, h2⟩ := Res.bind_ok h
        unfold loadQuant at h1; split at h1
        · cases h1
        · injection h1 with _ h1; subst h1
          obtain ⟨a, b, c, rfl⟩ := ih h2; exact ⟨a, b, c, rfl⟩

/-- Also where it fails, but for the note of the bad table (R405). -/
theorem loadQuantTables_fail_frame {f p s k t} (h : loadQuantTables f p s = .fail k t) : ∃ a b c r, t = { s with qt := a, qtPrec := b, qtDef := c, running := r } ∧ (r = s.running ∨ ∃ t, r = noteBadTable t s.running) := by
  induction f generalizing p s with
  | zero => unfold loadQuantTables at h; cases h
  | succ f ih =>
    cases p with
    | nil => unfold loadQuantTables at h; cases h
    | cons x p =>
      unfold loadQuantTables at h; dsimp only at h; generalize (if (highNibble x == 1) = true then 128 else 64) = sz at h; split at h
      · injection h with _ h; exact ⟨s.qt, s.qtPrec, s.qtDef, s.running, h.symm, .inl rfl⟩
      · rcases Res.bind_fail h with h | ⟨a, u, h1, h2⟩
        · unfold loadQuant at h; split at h
          · injection h with _ h; subst h; exact ⟨_, _, _, _, rfl, .inr ⟨_, rfl⟩⟩
          · cases h
        · unfold loadQuant at h1; split at h1
          · cases h1
          · injection h1 with _ h1; subst h1
            obtain ⟨a, b, c, r, rfl, hr⟩ := ih h2; exact ⟨a, b, c, r, rfl, hr⟩

/-- A DHT payload changes the JPEG trees and the scratch only, or fails (R370). -/
theorem loadHuffTables_next {f p s t} (h : loadHuffTables f p s = .next t) : ∃ a b c d, let u : State := { s with jdc := a, jac := b, jhuf := c, draws := d }; t = nextMarker u ∨ ∃ k, t = failCall k u := by
  induction f generalizing p s with
  | zero => unfold loadHuffTables at h; injection h with h; exact ⟨s.jdc, s.jac, s.jhuf, s.draws, .inl h.symm⟩
  | succ f ih =>
    cases p with
    | nil => unfold loadHuffTables at h; injection h with h; exact ⟨s.jdc, s.jac, s.jhuf, s.draws, .inl h.symm⟩
    | cons x p =>
      unfold loadHuffTables at h; dsimp only at h; split at h
      · injection h with h; exact ⟨s.jdc, s.jac, s.jhuf, s.draws, .inr ⟨_, h.symm⟩⟩
      · split at h
        · injection h with h; exact ⟨s.jdc, s.jac, s.jhuf, s.draws, .inr ⟨_, h.symm⟩⟩
        · split at h
          · obtain ⟨a, b, c, d, hx⟩ := ih h
            refine ⟨a, b, c, d, ?_⟩
            unfold setJpegSlot at hx; split at hx <;> exact hx
          · cases h

/-- What the end of a block can do: go on, end the call, hand the bytes to PNG, or fail (R190, R192, R240, R273). -/
theorem finishBlock_next {s t} (h : finishBlock s = .next t) :
   (s.inf.bfinal = false ∧ t = { s with point := .blockHdr }) ∨ (s.inf.bfinal = true ∧
     ((s.running = some .inflate ∧ t = endInflate { s with resLen := resLenOf s.inf.produced }) ∨
      (s.running = some .zlib ∧ (t = endZlib { sumAdler s with resLen := resLenOf s.out.length } ∨ t = failCall .malformedContainer (sumAdler s))) ∨
      (s.running = some .png ∧ (t = failCall .malformedContainer (sumAdler s) ∨ t = failCall .truncatedStream { sumAdler s with raw := s.out, out := [] } ∨
         t = { sumAdler s with raw := s.out, out := [], png := { s.png with prev := List.replicate (pngRowBytes s.png) 0#8, cur := [], image := [], row := 0 }, point := .pngRow })))) := by
  unfold finishBlock at h; split at h
  · rename_i hb; right; refine ⟨hb, ?_⟩
    unfold inflateDone at h; split at h
    · rename_i hr; injection h with h; exact .inl ⟨hr, h.symm⟩
    · rename_i hr; right; left; refine ⟨hr, ?_⟩
      split at h <;> injection h with h
      · exact .inl h.symm
      · exact .inr h.symm
    · rename_i hr; right; right; refine ⟨hr, ?_⟩
      split at h
      · unfold beginRows at h; dsimp only at h; split at h <;> injection h with h
        · exact .inr (.inl h.symm)
        · exact .inr (.inr h.symm)
      · injection h with h; exact .inl h.symm
    · cases h
  · rename_i hb; injection h with h; exact .inl ⟨by simpa using hb, h.symm⟩

/-- After a block of a scan: the next place, with only the scan's own registers changed (R378). -/
theorem nextBlock_frame (s : State) : ∃ (jd : Jdec) (jc : Jc) (co : List Int) (jb : Jbr) (p : Point), nextBlock s = { s with jdec := jd, jc := jc, coef := co, jbr := jb, point := p } ∧ (p = .jpegDc ∨ p = .jpegRestart ∨ p = .jpegMarker) ∧ (co = s.coef ∨ co.length = 64) ∧ (s.jbr.cnt ≤ 8 → jb.cnt ≤ 8) := by
  unfold nextBlock
  dsimp only
  split
  · exact ⟨_, _, _, _, _, rfl, .inl rfl, .inr (by simp), id⟩
  · split
    · exact ⟨_, _, _, _, _, rfl, .inl rfl, .inr (by simp), id⟩
    · split
      · exact ⟨_, _, _, _, _, rfl, .inl rfl, .inr (by simp), id⟩
      · split
        · unfold beginMcu; dsimp only; split
          · exact ⟨_, _, _, _, _, rfl, .inr (.inl rfl), .inl rfl, id⟩
          · exact ⟨_, _, _, _, _, rfl, .inl rfl, .inr (by simp), id⟩
        · split
          · unfold beginMcu; dsimp only; split
            · exact ⟨_, _, _, _, _, rfl, .inr (.inl rfl), .inl rfl, id⟩
            · exact ⟨_, _, _, _, _, rfl, .inl rfl, .inr (by simp), id⟩
          · exact ⟨_, _, _, _, _, rfl, .inr (.inr rfl), .inl rfl, fun _ => Nat.zero_le _⟩

end Sys2Proof.Machine
end

