-- ==== Sys2Proof/Laws/Output.lean ====
section
/-! SUPPORT. Output of INF: `State.Appended` holds for one byte, for a run of bytes, and for two runs one after the
other (42_inflate.md R215). -/

namespace Sys2Proof.Machine

/-- A run of bytes written leaves every other address as it was. -/
theorem Memory.read_writeAll_other (m : Memory) (a : Nat) (vs : List Byte) (b : Nat) (h : b < a ∨ a + vs.length ≤ b) : Memory.read (Memory.writeAll m a vs) b = Memory.read m b := by
  induction vs generalizing m a with
  | nil => rfl
  | cons v vs ih =>
    simp only [Memory.writeAll]
    simp at h
    rw [ih _ _ (by omega), Memory.read_write_other (by omega)]

/-- Nothing appended. -/
theorem appended_nil (s : State) (h : s.inf.wpos < 32768) : s.Appended [] s := by
  refine ⟨?_, by simp, by simp⟩
  simp [Nat.mod_eq_of_lt h]

/-- One byte appended (R215). -/
theorem appended_emit (v : Byte) (s : State) (hw : Memory.wf s.win = true) (h : s.inf.wpos < 32768) : s.Appended [v] (emit v s) := by
  refine ⟨rfl, ?_, ?_⟩
  · intro k hk _
    simp at hk; subst hk
    simp [emit, Nat.mod_eq_of_lt h, Memory.read_write_same hw]
  · intro a ha
    have := ha 0 (by simp)
    simp [Nat.mod_eq_of_lt h] at this
    simp [emit, Memory.read_write_other this]

/-- Two runs appended, one after the other. -/
theorem appended_trans {s t u : State} {x y : List Byte} (h1 : s.Appended x t) (h2 : t.Appended y u) : s.Appended (x ++ y) u := by
  obtain ⟨e1, r1, o1⟩ := h1
  obtain ⟨e2, r2, o2⟩ := h2
  have hwp : t.inf.wpos = (s.inf.wpos + x.length) % 32768 := by rw [e1]
  have hpr : t.inf.produced = s.inf.produced + x.length := by rw [e1]
  have hm : ∀ k, (t.inf.wpos + k) % 32768 = (s.inf.wpos + (x.length + k)) % 32768 := by intro k; rw [hwp]; omega
  refine ⟨?_, ?_, ?_⟩
  · clear r1 r2 o1 o2 hm
    generalize t.win = tw at *
    generalize u.win = uw at *
    subst e1; subst e2
    simp only [List.length_append, List.append_assoc, Nat.add_assoc, Nat.mod_add_mod]
  · intro k hk hl
    simp only [List.length_append] at hk hl
    by_cases hx : k < x.length
    · rw [o2 _ (by
        intro j hj hc
        rw [hm] at hc
        omega), r1 k hx (by omega)]
      simp only [List.getD_eq_getElem?_getD, List.getElem?_append_left hx]
    · have := r2 (k - x.length) (by omega) (by omega)
      rw [hm, show x.length + (k - x.length) = k by omega] at this
      rw [this]; simp only [List.getD_eq_getElem?_getD, List.getElem?_append_right (Nat.le_of_not_lt hx)]
  · intro a ha
    simp only [List.length_append] at ha
    rw [o2 a (fun k hk => by rw [hm]; exact ha _ (by omega)), o1 a (fun k hk => ha k (by omega))]

/-- A run of bytes appended (R215). -/
theorem appended_emitAll (vs : List Byte) (s : State) (hw : Memory.wf s.win = true) (h : s.inf.wpos < 32768) : s.Appended vs (emitAll vs s) := by
  induction vs generalizing s with
  | nil => exact appended_nil s h
  | cons v vs ih =>
    have h1 := appended_emit v s hw h
    have h2 := ih (emit v s) (Memory.wf_write hw _ _) (Nat.mod_lt _ (by decide))
    exact appended_trans h1 h2

end Sys2Proof.Machine
end

