-- ==== Sys2Proof/Laws/Parsing.lean ====
section
/-! SUPPORT. What the parsing loops give: walks over a tree, code-length fields, palettes, JPEG segments and tables,
reconstructed rows. Each lemma says once what its function computes. -/

namespace Sys2Proof.Machine

/-- The walk follows the code function of the tree (R27, R170). -/
theorem walkTree_of_code (nodes : List Node) (bit : Nat → Bool) (n fuel k p v : Nat) (hf : n ≤ fuel)
   (h : treeCode nodes k ((List.range n).map fun i => bit (p + i)) = some v) : walkTree nodes bit fuel k p = .leaf v (p + n) := by
  induction n generalizing fuel k p with
  | zero => simp [treeCode] at h
  | succ n ih =>
    obtain ⟨f, rfl⟩ : ∃ f, fuel = f + 1 := ⟨fuel - 1, by omega⟩
    rw [List.range_succ_eq_map, List.map_cons, List.map_map] at h
    simp only [treeCode, Nat.add_zero] at h
    unfold walkTree
    cases hc : childOf nodes k (bit p) with
    | none => simp [hc] at h
    | some c =>
      simp only [hc] at h ⊢
      cases hnode : nodes[c]? with
      | none => simp [hnode] at h
      | some node =>
        simp only [hnode] at h ⊢
        split at h
        · rename_i hk
          rw [if_pos hk]
          split at h
          · rename_i hnil
            have : n = 0 := by simpa using hnil
            subst this; simp at h; subst h; rfl
          · simp at h
        · rename_i hk
          rw [if_neg hk, ih f c (p+1) (by omega), show p + 1 + n = p + (n+1) by omega]
          rw [← h]; congr 1
          apply List.map_congr_left; intro a _; simp only [Function.comp]; congr 1; omega

/-- The walk follows a path of internal nodes (R170). -/
theorem walkTree_of_path (nodes : List Node) (bit : Nat → Bool) (n fuel k p m : Nat)
   (h : treePath nodes k ((List.range n).map fun i => bit (p + i)) = some m) : walkTree nodes bit (n + fuel) k p = walkTree nodes bit fuel m (p + n) := by
  induction n generalizing fuel k p with
  | zero => simp [treePath] at h; simp [h]
  | succ n ih =>
    rw [List.range_succ_eq_map, List.map_cons, List.map_map] at h
    simp only [treePath, Nat.add_zero] at h
    rw [show n + 1 + fuel = (n + fuel) + 1 by omega]
    conv => lhs; unfold walkTree
    cases hc : childOf nodes k (bit p) with
    | none => simp [hc] at h
    | some c =>
      simp only [hc] at h ⊢
      cases hnode : nodes[c]? with
      | none => simp [hnode] at h
      | some node =>
        simp only [hnode] at h ⊢
        split at h
        · simp at h
        · rename_i hk
          rw [if_neg hk, ih fuel c (p+1), show p + 1 + n = p + (n+1) by omega]
          rw [← h]; congr 1
          apply List.map_congr_left; intro a _; simp only [Function.comp]; congr 1; omega

/-- The code-length fields, when their bits are there (R201). -/
theorem readClenFields_of_le : ∀ (n : Nat) (s : State), 3 * n ≤ brUnread s → readClenFields n s = .ok ((List.range n).map fun i => bitsLsb s (brPos s + 3 * i) 3) (brSeek (brPos s + 3 * n) s)
  | 0, s, _ => by rw [readClenFields]; simp; exact (brSeek_self s).symm
  | n+1, s, h => by
    have hu : brUnread (brSeek (brPos s + 3) s) = brUnread s - 3 := by unfold brUnread; rw [brPos_brSeek]; show 8 * s.br.len - _ = _; omega
    rw [readClenFields, readBits_of_le (by omega)]
    simp only [Res.bind]
    rw [readClenFields_of_le n _ (by omega), brPos_brSeek]
    simp only
    congr 1
    · rw [List.range_succ_eq_map, List.map_cons, List.map_map]; congr 1
      apply List.map_congr_left; intro i _; rw [bitsLsb_brSeek]; simp only [Function.comp]; congr 1; omega
    · unfold brSeek; simp only; congr 1; congr 1
      · congr 1; omega
      · congr 1; omega

/-- The code-length fields, when bits are missing (R201). -/
theorem readClenFields_short : ∀ (n : Nat) (s : State), brUnread s < 3 * n → ∃ b, readClenFields n s = .fail .truncatedStream { s with br := b }
  | 0, s, h => by omega
  | n+1, s, h => by
    rw [readClenFields]
    by_cases h3 : brUnread s < 3
    · rw [readBits_short h3]; exact ⟨s.br, rfl⟩
    · rw [readBits_of_le (by omega)]; simp only [Res.bind]
      have hu : brUnread (brSeek (brPos s + 3) s) = brUnread s - 3 := by unfold brUnread; rw [brPos_brSeek]; show 8 * s.br.len - _ = _; omega
      obtain ⟨b, hb⟩ := readClenFields_short n (brSeek (brPos s + 3) s) (by omega)
      rw [hb]; exact ⟨b, rfl⟩

/-- Placing the fields keeps the length. -/
theorem placeClen_length : ∀ (vs os lens : List Nat), (placeClen vs os lens).length = lens.length
  | [], _, _ => by simp [placeClen]
  | _ :: _, [], _ => by simp [placeClen]
  | v :: vs, o :: os, lens => by rw [placeClen, placeClen_length]; simp

/-- Where a field is placed (R201). -/
theorem placeClen_getD : ∀ (vs os lens : List Nat), os.Nodup → (∀ o ∈ os, o < lens.length) → ∀ j, (placeClen vs os lens).getD j 0 = if os.idxOf j < os.length ∧ os.idxOf j < vs.length then vs.getD (os.idxOf j) 0 else lens.getD j 0
  | [], os, lens, _, _, j => by simp [placeClen]
  | _ :: _, [], lens, _, _, j => by simp [placeClen]
  | v :: vs, o :: os, lens, hn, hl, j => by
    rw [placeClen, placeClen_getD vs os (lens.set o v) (by simp at hn; exact hn.2) (by intro x hx; rw [List.length_set]; exact hl x (by simp [hx]))]
    simp only [List.idxOf_cons, List.length_cons]
    by_cases h : o = j
    · subst h
      have hno : o ∉ os := by simp at hn; exact hn.1
      have : ¬ os.idxOf o < os.length := by rw [List.idxOf_lt_length_iff]; exact hno
      rw [if_neg (by omega)]; simp [hl o (by simp)]
    · have hb : (o == j) = false := by simpa using h
      simp only [hb, cond_false]
      by_cases hc : os.idxOf j < os.length ∧ os.idxOf j < vs.length
      · rw [if_pos hc, if_pos (by omega)]; simp
      · rw [if_neg hc, if_neg (by omega)]; simp [h]

/-- The entries of a palette, three bytes each (R269). -/
theorem paletteOf_spec : ∀ (n : Nat) (l : List Byte), l.length = 3 * n → (paletteOf l).length = n ∧ ∀ i, i < n → (paletteOf l)[i]? = some { r := l.getD (3*i) 0#8, g := l.getD (3*i+1) 0#8, b := l.getD (3*i+2) 0#8 }
  | 0, l, h => by have : l = [] := List.length_eq_zero_iff.mp (by omega); subst this; exact ⟨rfl, fun i h => absurd h (by omega)⟩
  | n + 1, [], h => by simp at h
  | n + 1, [_], h => by simp at h; omega
  | n + 1, [_,_], h => by simp at h; omega
  | n + 1, a::b::c::l, h => by
    obtain ⟨h1, h2⟩ := paletteOf_spec n l (by simp at h; omega)
    refine ⟨by rw [paletteOf]; simp [h1], fun i hi => ?_⟩
    rw [paletteOf]
    cases i with
    | zero => rfl
    | succ i => simpa [Nat.mul_add] using h2 i (by omega)

/-- Joining parts that are all there. -/
theorem joinAll_map_some {α} (f : α → List Byte) (l : List α) : joinAll (l.map fun r => some (f r)) = some (l.flatMap f) := by
  induction l with
  | nil => rfl
  | cons a l ih => rw [List.map_cons, joinAll, ih]; simp

/-- Joining parts that are all there, given one by one. -/
theorem joinAll_of_mem (f : Nat → Option (List Byte)) (g : Nat → List Byte) : ∀ (l : List Nat) (_ : ∀ x ∈ l, f x = some (g x)), joinAll (l.map f) = some (l.flatMap g)
  | [], _ => rfl
  | a :: l, h => by rw [List.map_cons, h a (by simp), joinAll, joinAll_of_mem f g l (fun x hx => h x (by simp [hx]))]; simp

/-- Joining with a part missing. -/
theorem joinAll_missing {α} (f : α → Option (List Byte)) : ∀ (l : List α) (_ : ∃ x ∈ l, f x = none), joinAll (l.map f) = none
  | [], h => by simp at h
  | a :: l, h => by
    rw [List.map_cons]
    cases ha : f a with
    | none => rfl
    | some x =>
      rw [joinAll, joinAll_missing f l (by obtain ⟨y, hy, hn⟩ := h; rcases List.mem_cons.1 hy with rfl | hy; rw [ha] at hn; cases hn; exact ⟨y, hy, hn⟩)]; rfl

/-- What the reconstruction appends to the bytes so far (R275). -/
theorem unfilterFrom_spec (pred : Byte → Byte → Byte → Byte) (bpp : Nat) (prev : List Byte) (hb : 1 ≤ bpp) : ∀ (raw cur : List Byte),
   ∃ ext, unfilterFrom pred bpp prev raw cur = cur ++ ext ∧ ext.length = raw.length ∧
     ∀ x, x < raw.length → ext.getD x 0#8 = raw.getD x 0#8 + pred (leftByte bpp (cur ++ ext) (cur.length + x)) (prev.getD (cur.length + x) 0#8) (leftByte bpp prev (cur.length + x))
  | [], cur => ⟨[], by simp [unfilterFrom], rfl, fun x h => by simp at h⟩
  | f :: rest, cur => by
    let b := f + pred (leftByte bpp cur cur.length) (prev.getD cur.length 0#8) (leftByte bpp prev cur.length)
    obtain ⟨ext, h1, h2, h3⟩ := unfilterFrom_spec pred bpp prev hb rest (cur ++ [b])
    refine ⟨b :: ext, ?_, by simp [h2], fun x hx => ?_⟩
    · rw [unfilterFrom]; rw [show cur ++ b :: ext = cur ++ [b] ++ ext by simp]; exact h1
    · cases x with
      | zero =>
        have : leftByte bpp (cur ++ b :: ext) (cur.length + 0) = leftByte bpp cur cur.length := by
          unfold leftByte; simp only [Nat.add_zero]; split
          · rw [List.getD_eq_getElem?_getD, List.getElem?_append_left (by omega), ← List.getD_eq_getElem?_getD]
          · rfl
        rw [this]; rfl
      | succ x =>
        have := h3 x (by simpa using hx)
        simp only [List.length_append, List.length_cons, List.length_nil, List.append_assoc, List.cons_append, List.nil_append] at this
        rw [show cur.length + (0 + 1) + x = cur.length + (x + 1) by omega] at this
        simpa using this

/-- Each byte of a reconstructed row (R275). -/
theorem unfilterRow_spec (pred : Byte → Byte → Byte → Byte) (bpp : Nat) (prev : List Byte) (hb : 1 ≤ bpp) (raw : List Byte) :
   (unfilterRow pred bpp prev raw).length = raw.length ∧ ∀ x, x < raw.length → (unfilterRow pred bpp prev raw).getD x 0#8 = raw.getD x 0#8 + pred (leftByte bpp (unfilterRow pred bpp prev raw) x) (prev.getD x 0#8) (leftByte bpp prev x) := by
  obtain ⟨ext, h1, h2, h3⟩ := unfilterFrom_spec pred bpp prev hb raw []
  have : unfilterRow pred bpp prev raw = ext := by unfold unfilterRow; simpa using h1
  rw [this]; exact ⟨h2, fun x hx => by simpa using h3 x hx⟩

/-- No test left. -/
theorem unlessFail_nil (s : State) (o : Out) : unlessFail [] s o = o := rfl

/-- A test that holds fails the call. -/
theorem unlessFail_true {c : Bool} (hc : c = true) (k : FailKind) (r) (s : State) (o : Out) : unlessFail ((c,k)::r) s o = raise k s := by subst hc; rfl

/-- A test that does not hold is passed. -/
theorem unlessFail_false {c : Bool} (hc : c = false) (k : FailKind) (r) (s : State) (o : Out) : unlessFail ((c,k)::r) s o = unlessFail r s o := by subst hc; rfl

/-- A segment that lies at the cursor is read whole (R363). -/
theorem segment_of_is {s : State} {payload : List Byte} (h : s.SegmentIs payload) :
    segment s = .ok payload { s with jdec := { s.jdec with pos := s.jdec.pos + payload.length + 2 } } := by
  obtain ⟨h1, h2, h3⟩ := h
  unfold segment; dsimp only
  rw [h1, if_neg (by omega), if_neg (by omega), if_neg (by omega), Nat.add_sub_cancel, ← h3]
  rfl

/-- No value twice. -/
theorem hasRepeat_eq_false_iff : ∀ l : List Byte, hasRepeat l = false ↔ l.Nodup
  | [] => by simp [hasRepeat]
  | x :: l => by simp [hasRepeat, hasRepeat_eq_false_iff l]

/-- Two-byte entries, high byte first (R330). -/
theorem quantEntries_wide : ∀ (n : Nat) (b : List Byte), b.length = 2 * n → (quantEntries true b).length = n ∧ ∀ k, k < n → (quantEntries true b).getD k 0 = (b.getD (2*k) 0#8).toNat * 256 + (b.getD (2*k+1) 0#8).toNat
  | 0, b, h => by have : b = [] := List.length_eq_zero_iff.mp (by omega); subst this; exact ⟨rfl, fun i h => absurd h (by omega)⟩
  | n+1, [], h => by simp at h
  | n+1, [_], h => by simp at h; omega
  | n+1, a::c::b, h => by
    obtain ⟨x, y⟩ := quantEntries_wide n b (by simp at h; omega)
    rw [quantEntries]
    refine ⟨by simp [x], fun k hk => ?_⟩
    cases k with
    | zero => rfl
    | succ k => simpa [Nat.mul_add] using y k (by omega)

/-- The bytes of the entries of a table. -/
theorem quantTableBytes_length (wide : Bool) (e : List Nat) : (e.flatMap fun q => if wide then [BitVec.ofNat 8 (q / 256), BitVec.ofNat 8 q] else [BitVec.ofNat 8 q]).length = e.length * (if wide then 2 else 1) := by
  induction e with
  | nil => simp
  | cons a e ih => rw [List.flatMap_cons, List.length_append, ih]; cases wide <;> simp <;> omega

/-- Entries come back from their bytes (R330). -/
theorem quantEntries_of_bytes (wide : Bool) (e : List Nat) (h : ∀ q ∈ e, q < (if wide then 65536 else 256)) : quantEntries wide (e.flatMap fun q => if wide then [BitVec.ofNat 8 (q / 256), BitVec.ofNat 8 q] else [BitVec.ofNat 8 q]) = e := by
  induction e with
  | nil => cases wide <;> rfl
  | cons a e ih =>
    have ih := ih (fun q hq => h q (by simp [hq]))
    have ha := h a (by simp)
    rw [List.flatMap_cons]
    cases wide
    · simp only [Bool.false_eq_true, if_false] at ih ha ⊢
      simp only [quantEntries, List.cons_append, List.nil_append, List.map_cons] at ih ⊢
      rw [ih]; simp; omega
    · simp only [if_true, List.cons_append, List.nil_append] at ih ha ⊢
      rw [quantEntries, ih]; simp [be16]; omega

/-- One table of a DQT payload (R368). -/
theorem loadQuantTables_step (t : Nat) (wide : Bool) (e : List Nat) (ok : QuantTableOk t wide e) (rest : List Byte) (fuel : Nat) (s : State) :
    loadQuantTables (fuel + 1) (quantTableBytes t wide e ++ rest) s = loadQuantTables fuel rest (s.withQuant t wide e) := by
  obtain ⟨h1, h2, h3⟩ := ok
  have hb : (16 * wide.toNat + t) < 256 := by have := Bool.toNat_le wide; omega
  have hn : highNibble (BitVec.ofNat 8 (16 * wide.toNat + t)) = wide.toNat := by unfold highNibble; simp; cases wide <;> simp <;> omega
  have hl : lowNibble (BitVec.ofNat 8 (16 * wide.toNat + t)) = t := by unfold lowNibble; simp; cases wide <;> omega
  have hw : (wide.toNat == 1) = wide := by cases wide <;> rfl
  rw [quantTableBytes, List.cons_append, loadQuantTables]
  simp only [hn, hl, hw]
  have hlen := quantTableBytes_length wide e
  rw [h2] at hlen
  generalize hB : (e.flatMap fun q => if wide then [BitVec.ofNat 8 (q / 256), BitVec.ofNat 8 q] else [BitVec.ofNat 8 q]) = B at hlen ⊢
  have hsz : (if wide = true then 128 else 64) = B.length := by rw [hlen]; cases wide <;> rfl
  rw [hsz, List.take_left, List.drop_left, if_neg]
  · rw [← hB, quantEntries_of_bytes wide e (fun q hq => (h3 q hq).2), loadQuant, if_neg]
    · rfl
    · simp; intro h0; have := (h3 0 h0).1; omega
  · have := Bool.toNat_le wide; simp; omega

/-- One table of a DHT payload (R370). -/
theorem loadHuffTables_step (ac : Bool) (h : Nat) (counts syms : List Nat) (ok : HuffTableOk h counts syms) (rest : List Byte) (fuel : Nat) (s : State) :
    loadHuffTables (fuel + 1) (huffTableBytes ac h counts syms ++ rest) s = loadHuffTables fuel rest (s.withHuff ac h counts syms) := by
  obtain ⟨h1, h2, h3, h4, h5, h6, h7⟩ := ok
  have hn : highNibble (BitVec.ofNat 8 (16 * ac.toNat + h)) = ac.toNat := by unfold highNibble; simp; cases ac <;> simp <;> omega
  have hl : lowNibble (BitVec.ofNat 8 (16 * ac.toNat + h)) = h := by unfold lowNibble; simp; cases ac <;> omega
  have mapid : ∀ l : List Nat, (∀ v ∈ l, v < 256) → (l.map (BitVec.ofNat 8)).map (·.toNat) = l := by
    intro l hl; rw [List.map_map]; conv => rhs; rw [← List.map_id l]
    apply List.map_congr_left; intro a ha; have := hl a ha; simp; omega
  rw [huffTableBytes, List.cons_append, loadHuffTables]
  simp only [hn, hl]
  rw [List.map_append, List.append_assoc]
  generalize hC : counts.map (BitVec.ofNat 8) = C
  generalize hS : syms.map (BitVec.ofNat 8) = S
  have cl : C.length = 16 := by rw [← hC]; simpa using h2
  have sl : S.length = counts.sum := by rw [← hS]; simpa using h3
  have t1 : List.take 16 (C ++ (S ++ rest)) = C := by rw [← cl]; exact List.take_left
  have d1 : List.drop 16 (C ++ (S ++ rest)) = S ++ rest := by rw [← cl]; exact List.drop_left
  have d2 : List.drop (16 + counts.sum) (C ++ (S ++ rest)) = rest := by rw [← List.drop_drop, d1, ← sl]; exact List.drop_left
  have t2 : List.take counts.sum (S ++ rest) = S := by rw [← sl]; exact List.take_left
  rw [t1, ← hC, mapid counts h6, hC, d1, d2, t2, ← hS, mapid syms h7, if_neg, if_neg, if_pos h5]
  · cases ac
    · simp only [Bool.toNat_false, State.withHuff, setJpegSlot, releaseJhuf]; rw [if_pos (by omega), show 8 + 4 * 0 + h - 8 = h by omega]; rfl
    · simp only [Bool.toNat_true, State.withHuff, setJpegSlot, releaseJhuf]; rw [if_neg (by omega), show 8 + 4 * 1 + h - 12 = h by omega]; rfl
  · simp [cl]; rw [h3]; omega
  · have := Bool.toNat_le ac; simp [cl]; omega

/-- The start of a scan (R378). -/
theorem beginScan_eq (s : State) : beginScan s = beginScanBlock 0 0 0 { s with
     jdec := { s.jdec with mcuLeft := s.jdec.restartInterval - 1, rstNext := 0 }, pred := [0,0,0], jbr := { pos := s.jdec.pos, acc := 0#8, cnt := 0 }, jbrLive := true, jc := { s.jc with mx := 0, my := 0 } } := by
  unfold beginScan beginMcu; extract_lets t u
  split
  · rename_i h; exact absurd h.2 h.1
  · unfold enterMcu
    split
    · rename_i h; have h : s.jdec.restartInterval = 0 := h
      show beginScanBlock 0 0 0 { s with jdec := { s.jdec with mcuLeft := s.jdec.restartInterval, rstNext := 0 }, pred := [0,0,0], jbr := { pos := s.jdec.pos, acc := 0#8, cnt := 0 }, jbrLive := true, jc := { s.jc with mx := 0, my := 0 } } = _
      rw [show s.jdec.restartInterval - 1 = s.jdec.restartInterval by omega]
    · rfl

end Sys2Proof.Machine
end

