-- ==== Sys2Proof/Laws/PerInstr.lean ====
section
/-! SUPPORT. Per-instruction statements, one lemma a constructor. Family `EncodeFits`: the value the encoder gives a
well-formed instruction has no more bits than the opcode table gives its format (30_encoding.md R120). -/

namespace Sys2Proof.Laws.EncodeFits

/-- The value of a well-formed instruction fits the bits of its format (R120). -/
def Statement (i : Instr) : Prop := i.wellFormed = true → encode i < 2 ^ formatBits (formatOf i)

theorem brReset : Statement .brReset := fun _ => by decide
theorem brReadbits : Statement .brReadbits := fun _ => by decide
theorem brReadbit : Statement .brReadbit := fun _ => by decide
theorem brReadbitsRev : Statement .brReadbitsRev := fun _ => by decide
theorem brAlign : Statement .brAlign := fun _ => by decide
theorem brReadbytes : Statement .brReadbytes := fun _ => by decide
theorem hufBuild : Statement .hufBuild := fun _ => by decide
theorem hufBuildFixed : Statement .hufBuildFixed := fun _ => by decide
theorem hufDecode : Statement .hufDecode := fun _ => by decide
theorem infDecompress : Statement .infDecompress := fun _ => by decide
theorem zlbDecompress : Statement .zlbDecompress := fun _ => by decide
theorem pngDecode : Statement .pngDecode := fun _ => by decide
theorem jhufBuild : Statement .jhufBuild := fun _ => by decide
theorem jcReset : Statement .jcReset := fun _ => by decide
theorem jcBlock : Statement .jcBlock := fun _ => by decide
theorem jdqLoad : Statement .jdqLoad := fun _ => by decide
theorem jdqBlock : Statement .jdqBlock := fun _ => by decide
theorem jidctBlock : Statement .jidctBlock := fun _ => by decide
theorem jccPixel : Statement .jccPixel := fun _ => by decide
theorem jccGray : Statement .jccGray := fun _ => by decide
theorem jpegDecode : Statement .jpegDecode := fun _ => by decide
theorem blockStored (bfinal : Bool) : Statement (.blockStored bfinal) := fun _ => by cases bfinal <;> decide
theorem blockFixed (bfinal : Bool) : Statement (.blockFixed bfinal) := fun _ => by cases bfinal <;> decide
theorem blockDynamic (bfinal : Bool) : Statement (.blockDynamic bfinal) := fun _ => by cases bfinal <;> decide
theorem blockReserved (bfinal : Bool) : Statement (.blockReserved bfinal) := fun _ => by cases bfinal <;> decide
theorem storedLenNlen (len : Half) (nlen : Half) : Statement (.storedLenNlen len nlen) := by
  intro h
  have := len.isLt
  have := nlen.isLt
  show len.toNat + nlen.toNat * 2 ^ 16 < 2 ^ 32
  omega
theorem dynCounts (hlit : BitVec 5) (hdist : BitVec 5) (hclen : BitVec 4) : Statement (.dynCounts hlit hdist hclen) := by
  intro h
  have := hlit.isLt
  have := hdist.isLt
  have := hclen.isLt
  show hlit.toNat + hdist.toNat * 2 ^ 5 + hclen.toNat * 2 ^ 10 < 2 ^ 14
  omega
theorem clLen (v : BitVec 4) : Statement (.clLen v) := by
  intro h
  have := v.isLt
  show v.toNat < 2 ^ 5
  omega
theorem clRep : Statement .clRep := fun _ => by decide
theorem clZero3 : Statement .clZero3 := fun _ => by decide
theorem clZero11 : Statement .clZero11 := fun _ => by decide
theorem lit (v : Byte) : Statement (.lit v) := by
  intro h
  have := v.isLt
  show v.toNat < 2 ^ 9
  omega
theorem eob : Statement .eob := fun _ => by decide
theorem len257 : Statement .len257 := fun _ => by decide
theorem len258 : Statement .len258 := fun _ => by decide
theorem len259 : Statement .len259 := fun _ => by decide
theorem len260 : Statement .len260 := fun _ => by decide
theorem len261 : Statement .len261 := fun _ => by decide
theorem len262 : Statement .len262 := fun _ => by decide
theorem len263 : Statement .len263 := fun _ => by decide
theorem len264 : Statement .len264 := fun _ => by decide
theorem len265 : Statement .len265 := fun _ => by decide
theorem len266 : Statement .len266 := fun _ => by decide
theorem len267 : Statement .len267 := fun _ => by decide
theorem len268 : Statement .len268 := fun _ => by decide
theorem len269 : Statement .len269 := fun _ => by decide
theorem len270 : Statement .len270 := fun _ => by decide
theorem len271 : Statement .len271 := fun _ => by decide
theorem len272 : Statement .len272 := fun _ => by decide
theorem len273 : Statement .len273 := fun _ => by decide
theorem len274 : Statement .len274 := fun _ => by decide
theorem len275 : Statement .len275 := fun _ => by decide
theorem len276 : Statement .len276 := fun _ => by decide
theorem len277 : Statement .len277 := fun _ => by decide
theorem len278 : Statement .len278 := fun _ => by decide
theorem len279 : Statement .len279 := fun _ => by decide
theorem len280 : Statement .len280 := fun _ => by decide
theorem len281 : Statement .len281 := fun _ => by decide
theorem len282 : Statement .len282 := fun _ => by decide
theorem len283 : Statement .len283 := fun _ => by decide
theorem len284 : Statement .len284 := fun _ => by decide
theorem len285 : Statement .len285 := fun _ => by decide
theorem lenInvalid (second : Bool) : Statement (.lenInvalid second) := fun _ => by cases second <;> decide
theorem dist0 : Statement .dist0 := fun _ => by decide
theorem dist1 : Statement .dist1 := fun _ => by decide
theorem dist2 : Statement .dist2 := fun _ => by decide
theorem dist3 : Statement .dist3 := fun _ => by decide
theorem dist4 : Statement .dist4 := fun _ => by decide
theorem dist5 : Statement .dist5 := fun _ => by decide
theorem dist6 : Statement .dist6 := fun _ => by decide
theorem dist7 : Statement .dist7 := fun _ => by decide
theorem dist8 : Statement .dist8 := fun _ => by decide
theorem dist9 : Statement .dist9 := fun _ => by decide
theorem dist10 : Statement .dist10 := fun _ => by decide
theorem dist11 : Statement .dist11 := fun _ => by decide
theorem dist12 : Statement .dist12 := fun _ => by decide
theorem dist13 : Statement .dist13 := fun _ => by decide
theorem dist14 : Statement .dist14 := fun _ => by decide
theorem dist15 : Statement .dist15 := fun _ => by decide
theorem dist16 : Statement .dist16 := fun _ => by decide
theorem dist17 : Statement .dist17 := fun _ => by decide
theorem dist18 : Statement .dist18 := fun _ => by decide
theorem dist19 : Statement .dist19 := fun _ => by decide
theorem dist20 : Statement .dist20 := fun _ => by decide
theorem dist21 : Statement .dist21 := fun _ => by decide
theorem dist22 : Statement .dist22 := fun _ => by decide
theorem dist23 : Statement .dist23 := fun _ => by decide
theorem dist24 : Statement .dist24 := fun _ => by decide
theorem dist25 : Statement .dist25 := fun _ => by decide
theorem dist26 : Statement .dist26 := fun _ => by decide
theorem dist27 : Statement .dist27 := fun _ => by decide
theorem dist28 : Statement .dist28 := fun _ => by decide
theorem dist29 : Statement .dist29 := fun _ => by decide
theorem distInvalid (second : Bool) : Statement (.distInvalid second) := fun _ => by cases second <;> decide
theorem fixll0to143 (sym : BitVec 9) : Statement (.fixll0to143 sym) := by
  intro h
  simp only [Instr.wellFormed, decide_eq_true_eq] at h
  have := sym.isLt
  show 0x30 + sym.toNat < 2 ^ 9
  omega
theorem fixll144to255 (sym : BitVec 9) : Statement (.fixll144to255 sym) := by
  intro h
  simp only [Instr.wellFormed, decide_eq_true_eq, Bool.and_eq_true] at h
  have := sym.isLt
  show 0x190 + (sym.toNat - 144) < 2 ^ 9
  omega
theorem fixll256to279 (sym : BitVec 9) : Statement (.fixll256to279 sym) := by
  intro h
  simp only [Instr.wellFormed, decide_eq_true_eq, Bool.and_eq_true] at h
  have := sym.isLt
  show sym.toNat - 256 < 2 ^ 9
  omega
theorem fixll280to287 (sym : BitVec 9) : Statement (.fixll280to287 sym) := by
  intro h
  simp only [Instr.wellFormed, decide_eq_true_eq, Bool.and_eq_true] at h
  have := sym.isLt
  show 0xC0 + (sym.toNat - 280) < 2 ^ 9
  omega
theorem fixd0to31 (sym : BitVec 5) : Statement (.fixd0to31 sym) := by
  intro h
  have := sym.isLt
  show sym.toNat < 2 ^ 5
  omega
theorem zlibHdr (cmf : Byte) (flg : Byte) : Statement (.zlibHdr cmf flg) := by
  intro h
  have := cmf.isLt
  have := flg.isLt
  show cmf.toNat * 256 + flg.toNat < 2 ^ 16
  omega
theorem pngSignature : Statement .pngSignature := fun _ => by decide
theorem chunkIhdr : Statement .chunkIhdr := fun _ => by decide
theorem chunkPlte : Statement .chunkPlte := fun _ => by decide
theorem chunkIdat : Statement .chunkIdat := fun _ => by decide
theorem chunkIend : Statement .chunkIend := fun _ => by decide
theorem chunkOther (ty : Word) : Statement (.chunkOther ty) := by
  intro h
  have := ty.isLt
  show ty.toNat < 2 ^ 32
  omega
theorem ihdrPayload (width : Word) (height : Word) (depth : Byte) (color : Byte) (compression : Byte) (filter : Byte) (interlace : Byte) : Statement (.ihdrPayload width height depth color compression filter interlace) := by
  intro h
  have := width.isLt
  have := height.isLt
  have := depth.isLt
  have := color.isLt
  have := compression.isLt
  have := filter.isLt
  have := interlace.isLt
  show width.toNat * 2 ^ 72 + height.toNat * 2 ^ 40 + depth.toNat * 2 ^ 32 + color.toNat * 2 ^ 24 +  compression.toNat * 2 ^ 16 + filter.toNat * 2 ^ 8 + interlace.toNat < 2 ^ 104
  omega
theorem ctGray : Statement .ctGray := fun _ => by decide
theorem ctTruecolor : Statement .ctTruecolor := fun _ => by decide
theorem ctIndexed : Statement .ctIndexed := fun _ => by decide
theorem ctGrayAlpha : Statement .ctGrayAlpha := fun _ => by decide
theorem ctTruecolorAlpha : Statement .ctTruecolorAlpha := fun _ => by decide
theorem ctInvalid (v : Byte) : Statement (.ctInvalid v) := by
  intro h
  have := v.isLt
  show v.toNat < 2 ^ 8
  omega
theorem filterNone : Statement .filterNone := fun _ => by decide
theorem filterSub : Statement .filterSub := fun _ => by decide
theorem filterUp : Statement .filterUp := fun _ => by decide
theorem filterAverage : Statement .filterAverage := fun _ => by decide
theorem filterPaeth : Statement .filterPaeth := fun _ => by decide
theorem filterInvalid (v : Byte) : Statement (.filterInvalid v) := by
  intro h
  have := v.isLt
  show v.toNat < 2 ^ 8
  omega
theorem mSoi : Statement .mSoi := fun _ => by decide
theorem mEoi : Statement .mEoi := fun _ => by decide
theorem mSof0 : Statement .mSof0 := fun _ => by decide
theorem mSof1 : Statement .mSof1 := fun _ => by decide
theorem mSof2 : Statement .mSof2 := fun _ => by decide
theorem mSof3 : Statement .mSof3 := fun _ => by decide
theorem mSof5 : Statement .mSof5 := fun _ => by decide
theorem mSof6 : Statement .mSof6 := fun _ => by decide
theorem mSof7 : Statement .mSof7 := fun _ => by decide
theorem mSof9 : Statement .mSof9 := fun _ => by decide
theorem mSof10 : Statement .mSof10 := fun _ => by decide
theorem mSof11 : Statement .mSof11 := fun _ => by decide
theorem mSof13 : Statement .mSof13 := fun _ => by decide
theorem mSof14 : Statement .mSof14 := fun _ => by decide
theorem mSof15 : Statement .mSof15 := fun _ => by decide
theorem mDht : Statement .mDht := fun _ => by decide
theorem mDqt : Statement .mDqt := fun _ => by decide
theorem mDri : Statement .mDri := fun _ => by decide
theorem mSos : Statement .mSos := fun _ => by decide
theorem mRst (n : BitVec 3) : Statement (.mRst n) := by
  intro h
  have := n.isLt
  show 0xFFD0 + n.toNat < 2 ^ 16
  omega
theorem mOther (code : Byte) : Statement (.mOther code) := by
  intro h
  have := code.isLt
  show 0xFF00 + code.toNat < 2 ^ 16
  omega
theorem dcCat (t : BitVec 4) : Statement (.dcCat t) := by
  intro h
  simp only [Instr.wellFormed, decide_eq_true_eq] at h
  have := t.isLt
  show t.toNat < 2 ^ 8
  omega
theorem dcInvalid (t : Byte) : Statement (.dcInvalid t) := by
  intro h
  simp only [Instr.wellFormed, decide_eq_true_eq] at h
  have := t.isLt
  show t.toNat < 2 ^ 8
  omega
theorem acEob : Statement .acEob := fun _ => by decide
theorem acZrl : Statement .acZrl := fun _ => by decide
theorem acRunsize (rs : Byte) : Statement (.acRunsize rs) := by
  intro h
  have := rs.isLt
  show rs.toNat < 2 ^ 8
  omega

end Sys2Proof.Laws.EncodeFits
end

