-- ==== Sys2Proof/Tests/Slice0.lean ====
section
/-! SUPPORT. Tests of one step each on small states, expected results from spec/ (95_test_vectors.md and the rules
named), and for each statement with hypotheses states that meet them. -/

open Sys2Proof Sys2Proof.Machine

namespace Sys2Proof.Tests

/-! Small states. -/

/-- Bytes from address 0. -/
def bytesAt (l : List Nat) : Memory := Memory.writeAll [] 0 (l.map (BitVec.ofNat 8))

/-- At rest, with an input, two arguments, and the BR cursor at bit position `p` of the input. -/
def atRest (l : List Nat) (a0 a1 p : Nat) : State :=
  { State.reset with
    input := bytesAt l, inLen := BitVec.ofNat 32 l.length, arg0 := BitVec.ofNat 32 a0, arg1 := BitVec.ofNat 32 a1,
    br := { space := .input, base := 0, len := l.length, bytePos := p / 8, bitPos := BitVec.ofNat 3 p } }

/-- Inside a call. -/
def inCall (c : Call) (p : Point) (s : State) : State :=
  { s with status := statusBusy, running := some c, point := p }

/-- A part of the next state. -/
def after {α : Type} (o : Out) (f : State → α) : Option α :=
  match o with
  | .next t => some (f t)
  | _ => none

/-- The refusal, if it is one. -/
def refusalOf (o : Out) : Option Refusal :=
  match o with
  | .refused r => some r
  | _ => none

/-- Status and kind of the next state. -/
def ending (o : Out) : Option (Nat × Nat) := after o fun t => (t.status.toNat, t.errkind.toNat)

/-- `OUT` as numbers. -/
def outNats (o : Out) : Option (List Nat) := after o fun t => t.out.map (·.toNat)

/-- Whether a value of a format decodes to an instruction. -/
def decodesTo (f : Format) (rows : List (Nat × Instr)) : Bool :=
  rows.all fun x => match decode f x.1 with
    | .ok i => i == x.2
    | .error _ => false

/-! WellFormed: a term outside each check is refused, one at its edge is not. -/

theorem test_wf_fixll_ranges :
    (Instr.fixll0to143 144#9).wellFormed = false ∧ (Instr.fixll144to255 143#9).wellFormed = false ∧
      (Instr.fixll144to255 256#9).wellFormed = false ∧ (Instr.fixll256to279 255#9).wellFormed = false ∧
      (Instr.fixll256to279 280#9).wellFormed = false ∧ (Instr.fixll280to287 279#9).wellFormed = false ∧
      (Instr.fixll280to287 288#9).wellFormed = false := by decide

theorem test_wf_fixll_edges :
    (Instr.fixll0to143 143#9).wellFormed = true ∧ (Instr.fixll144to255 144#9).wellFormed = true ∧
      (Instr.fixll144to255 255#9).wellFormed = true ∧ (Instr.fixll256to279 279#9).wellFormed = true ∧
      (Instr.fixll280to287 287#9).wellFormed = true := by decide

theorem test_wf_chunk_other :
    (Instr.chunkOther 0x49484452#32).wellFormed = false ∧ (Instr.chunkOther 0x504C5445#32).wellFormed = false ∧
      (Instr.chunkOther 0x49444154#32).wellFormed = false ∧ (Instr.chunkOther 0x49454E44#32).wellFormed = false ∧
      (Instr.chunkOther 0x67414D41#32).wellFormed = true := by decide

theorem test_wf_png_defaults :
    (Instr.ctInvalid 0#8).wellFormed = false ∧ (Instr.ctInvalid 2#8).wellFormed = false ∧
      (Instr.ctInvalid 3#8).wellFormed = false ∧ (Instr.ctInvalid 4#8).wellFormed = false ∧
      (Instr.ctInvalid 6#8).wellFormed = false ∧ (Instr.ctInvalid 1#8).wellFormed = true ∧
      (Instr.filterInvalid 4#8).wellFormed = false ∧ (Instr.filterInvalid 5#8).wellFormed = true := by decide

theorem test_wf_marker_other :
    (Instr.mOther 0x00#8).wellFormed = false ∧ (Instr.mOther 0xFF#8).wellFormed = false ∧
      (Instr.mOther 0xC0#8).wellFormed = false ∧ (Instr.mOther 0xD0#8).wellFormed = false ∧
      (Instr.mOther 0xDB#8).wellFormed = false ∧ (Instr.mOther 0xDD#8).wellFormed = false ∧
      (Instr.mOther 0xC8#8).wellFormed = true ∧ (Instr.mOther 0xCC#8).wellFormed = true ∧
      (Instr.mOther 0xE0#8).wellFormed = true := by decide

theorem test_wf_jpeg_symbols :
    (Instr.dcCat 12#4).wellFormed = false ∧ (Instr.dcCat 11#4).wellFormed = true ∧
      (Instr.dcInvalid 11#8).wellFormed = false ∧ (Instr.dcInvalid 12#8).wellFormed = true ∧
      (Instr.acRunsize 0x00#8).wellFormed = false ∧ (Instr.acRunsize 0xF0#8).wellFormed = false ∧
      (Instr.acRunsize 0x01#8).wellFormed = true := by decide

/-! Decoding: a word of each constructor, written out from 30_encoding.md R101 to R116. -/

/-- R101. -/
theorem test_decode_commands : decodesTo .cmd ([(0x01, .brReset), (0x02, .brReadbits), (0x03, .brReadbit), (0x04, .brReadbitsRev), (0x05, .brAlign), (0x06, .brReadbytes)] ++
    [(0x10, .hufBuild), (0x11, .hufBuildFixed), (0x12, .hufDecode), (0x20, .infDecompress), (0x30, .zlbDecompress), (0x40, .pngDecode)] ++
    [(0x50, .jhufBuild), (0x51, .jcReset), (0x52, .jcBlock), (0x53, .jdqLoad), (0x54, .jdqBlock), (0x55, .jidctBlock)] ++
    [(0x56, .jccPixel), (0x57, .jccGray), (0x60, .jpegDecode)]) = true := by decide

/-- R104: bit 0 the final flag, bits 2 and 1 the type. -/
theorem test_decode_block_headers : decodesTo .blockHdr ([(0b000, .blockStored false), (0b001, .blockStored true), (0b010, .blockFixed false), (0b011, .blockFixed true), (0b100, .blockDynamic false), (0b101, .blockDynamic true)] ++
    [(0b110, .blockReserved false), (0b111, .blockReserved true)]) = true := by decide

/-- R105: `LEN` in bits 15 to 0, `NLEN` above it. -/
theorem test_decode_stored : decodesTo .stored ([(0xFFFA0005, .storedLenNlen 5#16 0xFFFA#16), (0x0000FFFF, .storedLenNlen 0xFFFF#16 0#16)]) = true := by decide

/-- R106: `HLIT`, `HDIST`, `HCLEN` upwards. -/
theorem test_decode_dynamic_counts : decodesTo .dynHdr ([(0b1110_00001_00000, .dynCounts 0#5 1#5 14#4), (0b0000_00000_11101, .dynCounts 29#5 0#5 0#4), (0x3FFF, .dynCounts 31#5 31#5 15#4)]) = true := by decide

/-- R107. -/
theorem test_decode_code_lengths : decodesTo .clen ([(0, .clLen 0#4), (15, .clLen 15#4), (16, .clRep), (17, .clZero3), (18, .clZero11)]) = true := by decide

/-- R108. -/
theorem test_decode_literals : decodesTo .litlen ([(0, .lit 0#8), (255, .lit 255#8), (256, .eob), (286, .lenInvalid false), (287, .lenInvalid true)]) = true := by decide

/-- R108. -/
theorem test_decode_lengths : decodesTo .litlen ([(257, .len257), (258, .len258), (259, .len259), (260, .len260), (261, .len261), (262, .len262)] ++
    [(263, .len263), (264, .len264), (265, .len265), (266, .len266), (267, .len267), (268, .len268)] ++
    [(269, .len269), (270, .len270), (271, .len271), (272, .len272), (273, .len273), (274, .len274)] ++
    [(275, .len275), (276, .len276), (277, .len277), (278, .len278), (279, .len279), (280, .len280)] ++
    [(281, .len281), (282, .len282), (283, .len283), (284, .len284), (285, .len285)]) = true := by decide

/-- R109. -/
theorem test_decode_distances : decodesTo .dist ([(0, .dist0), (1, .dist1), (2, .dist2), (3, .dist3), (4, .dist4), (5, .dist5)] ++
    [(6, .dist6), (7, .dist7), (8, .dist8), (9, .dist9), (10, .dist10), (11, .dist11)] ++
    [(12, .dist12), (13, .dist13), (14, .dist14), (15, .dist15), (16, .dist16), (17, .dist17)] ++
    [(18, .dist18), (19, .dist19), (20, .dist20), (21, .dist21), (22, .dist22), (23, .dist23)] ++
    [(24, .dist24), (25, .dist25), (26, .dist26), (27, .dist27), (28, .dist28), (29, .dist29)] ++
    [(30, .distInvalid false), (31, .distInvalid true)]) = true := by decide

/-- R110; the codes of V-HUF-3. -/
theorem test_decode_fixed_codes : decodesTo .fixedLL ([(0b00110000, .fixll0to143 0#9), (0b10010001, .fixll0to143 97#9), (0b10111111, .fixll0to143 143#9), (0b110010000, .fixll144to255 144#9), (0b111111111, .fixll144to255 255#9), (0b0000000, .fixll256to279 256#9)] ++
    [(0b0010111, .fixll256to279 279#9), (0b11000000, .fixll280to287 280#9), (0b11000111, .fixll280to287 287#9)]) = true := by decide

/-- R110; V-HUF-3. -/
theorem test_decode_fixed_distances : decodesTo .fixedD ([(0b00000, .fixd0to31 0#5), (0b00010, .fixd0to31 2#5), (0b11110, .fixd0to31 30#5), (0b11111, .fixd0to31 31#5)]) = true := by decide

/-- R112. -/
theorem test_decode_zlib_header : decodesTo .zlib ([(0x789C, .zlibHdr 0x78#8 0x9C#8), (0xFFFF, .zlibHdr 0xFF#8 0xFF#8)]) = true := by decide

/-- R261. -/
theorem test_decode_png_signature : decodesTo .pngFile ([(0x89504E470D0A1A0A, .pngSignature)]) = true := by decide

/-- R113. -/
theorem test_decode_png_chunks : decodesTo .pngChunk ([(0x49484452, .chunkIhdr), (0x504C5445, .chunkPlte), (0x49444154, .chunkIdat), (0x49454E44, .chunkIend), (0x67414D41, .chunkOther 0x67414D41#32), (0xFFFFFFFF, .chunkOther 0xFFFFFFFF#32)]) = true := by decide

/-- R113, R265: two words and five bytes, the first highest. -/
theorem test_decode_png_header : decodesTo .pngIhdr ([(0x00000002_00000003_08_06_01_02_04, .ihdrPayload 2#32 3#32 8#8 6#8 1#8 2#8 4#8)]) = true := by decide

/-- R113. -/
theorem test_decode_png_colors : decodesTo .pngColor ([(0, .ctGray), (2, .ctTruecolor), (3, .ctIndexed), (4, .ctGrayAlpha), (6, .ctTruecolorAlpha), (1, .ctInvalid 1#8)] ++
    [(255, .ctInvalid 255#8)]) = true := by decide

/-- R113. -/
theorem test_decode_png_filters : decodesTo .pngFilter ([(0, .filterNone), (1, .filterSub), (2, .filterUp), (3, .filterAverage), (4, .filterPaeth), (5, .filterInvalid 5#8)] ++
    [(255, .filterInvalid 255#8)]) = true := by decide

/-- R114. -/
theorem test_decode_jpeg_markers : decodesTo .jpegMarker ([(0xFFD8, .mSoi), (0xFFD9, .mEoi), (0xFFC0, .mSof0), (0xFFC1, .mSof1), (0xFFC2, .mSof2), (0xFFC3, .mSof3)] ++
    [(0xFFC5, .mSof5), (0xFFC6, .mSof6), (0xFFC7, .mSof7), (0xFFC9, .mSof9), (0xFFCA, .mSof10), (0xFFCB, .mSof11)] ++
    [(0xFFCD, .mSof13), (0xFFCE, .mSof14), (0xFFCF, .mSof15), (0xFFC4, .mDht), (0xFFDB, .mDqt), (0xFFDD, .mDri)] ++
    [(0xFFDA, .mSos), (0xFFD0, .mRst 0#3), (0xFFD7, .mRst 7#3), (0xFFE0, .mOther 0xE0#8), (0xFFC8, .mOther 0xC8#8), (0xFFCC, .mOther 0xCC#8)] ++
    [(0xFF01, .mOther 0x01#8), (0xFFDC, .mOther 0xDC#8), (0xFFFE, .mOther 0xFE#8)]) = true := by decide

/-- R116. -/
theorem test_decode_jpeg_dc : decodesTo .jpegDc ([(0, .dcCat 0#4), (11, .dcCat 11#4), (12, .dcInvalid 12#8), (255, .dcInvalid 255#8)]) = true := by decide

/-- R116. -/
theorem test_decode_jpeg_ac : decodesTo .jpegAc ([(0x00, .acEob), (0xF0, .acZrl), (0x11, .acRunsize 0x11#8), (0xF1, .acRunsize 0xF1#8), (0x30, .acRunsize 0x30#8), (0xFF, .acRunsize 0xFF#8)]) = true := by decide

/-- What is in no row is refused by name (R101, R107 to R110, R261, R362). -/
theorem test_decode_refusals :
    (([(.cmd, 0x00, .illegalCommand), (.cmd, 0x07, .illegalCommand), (.cmd, 0x61, .illegalCommand), (.cmd, 0x101, .illegalCommand), (.clen, 19, .noSuchSymbol), (.litlen, 288, .noSuchSymbol), (.dist, 32, .noSuchSymbol)] ++
      [(.fixedLL, 0x18, .noFixedCode), (.fixedLL, 0x2F, .noFixedCode), (.fixedLL, 0xC8, .noFixedCode), (.fixedLL, 0x18F, .noFixedCode), (.fixedLL, 0x200, .noFixedCode), (.fixedD, 32, .noFixedCode)] ++
      [(.pngFile, 0x89504E470D0A1A0B, .notSignature), (.jpegMarker, 0xFF00, .notMarker), (.jpegMarker, 0xFFFF, .notMarker), (.jpegMarker, 0xFED8, .notMarker), (.blockHdr, 8, .valueTooWide)] : List (Format × Nat × Reject))).all
      (fun x => match decode x.1 x.2.1 with
        | .ok _ => false
        | .error e => e == x.2.2) = true := by decide

/-! The memory and the numbers. -/

/-- A write of the value an unlisted address reads as removes the cell. -/
theorem test_memory_canonical :
    Memory.write (Memory.write (Memory.write [] 5 7#8) 3 1#8) 5 0#8 = [(3, 1#8)] ∧
      Memory.read (bytesAt [1, 0, 3]) 2 = 3#8 ∧ bytesAt [1, 0, 3] = [(0, 1#8), (2, 3#8)] := by decide

/-- The CRC of the four bytes of `IEND` (44_png.md R263; the last word of every vector of V-PNG). -/
theorem test_crc_iend : crc32 crcTable [0x49#8, 0x45#8, 0x4E#8, 0x44#8] = 0xAE426082#32 := by decide +kernel

/-- The Adler-32 of `Hello` (V-ZLB-1). -/
theorem test_adler_hello :
    adlerValue (adlerSums [0x48#8, 0x65#8, 0x6C#8, 0x6C#8, 0x6F#8] 1 0) = 0x058C01F5 := by decide

/-! BR (V-BR). -/

/-- V-BR-2: seven bits that span two bytes. -/
theorem test_readbits_spans :
    after (exec .brReadbits (atRest [0xB5, 0x3C, 0xF0, 0x0F, 0xAA] 7 0 3)) (fun t => (t.resValue.toNat, brPos t)) =
      some (22, 10) := by decide

/-- V-BR-9: 32 bits that span five bytes. -/
theorem test_readbits_32 :
    after (exec .brReadbits (atRest [0xB5, 0x3C, 0xF0, 0x0F, 0xAA] 32 0 4)) (fun t => (t.resValue.toNat, brPos t)) =
      some (0xA0FF03CB, 36) := by decide

/-- V-BR-11: the first bit consumed is the most significant. -/
theorem test_readbits_rev :
    after (exec .brReadbitsRev (atRest [0xB5, 0x3C, 0xF0, 0x0F, 0xAA] 5 0 3)) (fun t => (t.resValue.toNat, brPos t)) =
      some (13, 8) := by decide

/-- V-BR-20: counts 0 and 33. -/
theorem test_readbits_counts :
    refusalOf (exec .brReadbits (atRest [0xB5] 0 0 0)) = some .bitCountOutOfRange ∧
      refusalOf (exec .brReadbitsRev (atRest [0xB5] 33 0 0)) = some .bitCountOutOfRange := by decide

/-- V-BR-17: the first and the ninth bit. -/
theorem test_readbit :
    after (exec .brReadbit (atRest [0xB5] 0 0 0)) (·.resValue.toNat) = some 1 ∧
      ending (exec .brReadbit (atRest [0xB5] 0 0 8)) = some (2, 3) := by decide

/-- V-BR-4 and V-BR-5. -/
theorem test_align :
    after (exec .brAlign (atRest [0xB5, 0x3C, 0xF0] 0 0 14)) brPos = some 16 ∧
      after (exec .brAlign (atRest [0xB5, 0x3C, 0xF0] 0 0 16)) brPos = some 16 := by decide

/-- V-BR-13: four bytes from bit 7, to the very end. -/
theorem test_readbytes :
    outNats (exec .brReadbytes (atRest [0xB5, 0x3C, 0xF0, 0x0F, 0xAA] 4 0 7)) = some [0x3C, 0xF0, 0x0F, 0xAA] := by
  decide

/-- V-BR-14: five bytes from there fail, and the cursor may not be used until it is set again. -/
theorem test_readbytes_short :
    after (exec .brReadbytes (atRest [0xB5, 0x3C, 0xF0, 0x0F, 0xAA] 5 0 7))
      (fun t => (t.errkind.toNat, t.brLive, refusalOf (exec .brReadbit t), after (exec .brReset t) (·.brLive))) =
      some (3, false, some .cursorAfterFailure, some true) := by decide

/-- V-BR-19: an empty buffer. -/
theorem test_reset_empty : after (exec .brReset (atRest [] 0 0 0)) (fun t => (t.status.toNat, brUnread t)) = some (1, 0) := by
  decide

/-! HUF (V-HUF). -/

/-- V-HUF-1: the arena of eight codes. -/
theorem test_huf_build :
    after (exec .hufBuild (atRest [3, 3, 3, 3, 3, 2, 4, 4] 8 0 0))
      (fun t => (t.tUser.valid, t.tUser.nodes.length, t.tUser.nodes[9]?, t.tUser.nodes[11]?)) =
      some (true, 15, some { kind := .internal, left := some 10, right := some 12, sym := 0 },
        some { kind := .leaf, left := none, right := none, sym := 5 }) := by decide

/-- V-HUF-8: arrays that are not admitted. -/
theorem test_huf_build_refused :
    refusalOf (exec .hufBuild (atRest [1, 1, 1] 3 0 0)) = some .lengthsNotAdmitted ∧
      refusalOf (exec .hufBuild (atRest [16] 1 0 0)) = some .lengthsNotAdmitted := by decide

/-- A build of the fixed trees ends well (R165). -/
theorem test_huf_build_fixed :
    after (exec .hufBuildFixed (atRest [] 0 0 0)) (fun t => (t.status.toNat, t.draws)) = some (1, 1) := by decide

/-- V-HUF-2: the third symbol, from bit 5. -/
theorem test_huf_decode :
    after (exec .hufDecode { atRest [0xE8, 0x77] 5 0 5 with tUser := buildTree [3, 3, 3, 3, 3, 2, 4, 4] 15 })
      (fun t => (t.resValue.toNat, brPos t)) = some (7, 9) := by decide

/-- V-HUF-5 and V-HUF-7: a missing child, and no bit to read. -/
theorem test_huf_decode_fails :
    ending (exec .hufDecode { atRest [0x02] 5 0 1 with tUser := buildTree [0, 1, 0] 15 }) = some (2, 4) ∧
      ending (exec .hufDecode { atRest [] 5 0 0 with tUser := buildTree [0, 0, 0] 15 }) = some (2, 3) := by decide

/-! INF (V-INF). -/

/-- R190, R442: a call starts. -/
theorem test_inf_start :
    after (exec .infDecompress (atRest [3, 0] 0 0 9)) (fun t => (t.status.toNat, t.point, brPos t)) =
      some (3, .blockHdr, 0) := by decide

/-- V-INF-1, first element: a final stored block, from bit 3 to the next byte. -/
theorem test_block_stored :
    after (step (inCall .inflate .blockHdr (atRest [1, 5, 0, 250, 255] 0 0 0)))
      (fun t => (t.inf.bfinal, t.inf.btype.toNat, t.point, brPos t)) = some (true, 0, .stored, 8) := by decide

/-- V-INF-6, first element. -/
theorem test_block_fixed :
    after (step (inCall .inflate .blockHdr (atRest [3, 0] 0 0 0)))
      (fun t => (t.inf.bfinal, t.inf.btype.toNat, t.point, brPos t)) = some (true, 1, .litlenCode, 3) := by decide

/-- V-INF-3, first element. -/
theorem test_block_dynamic :
    after (step (inCall .inflate .blockHdr (atRest [13, 192] 0 0 0)))
      (fun t => (t.inf.bfinal, t.inf.btype.toNat, t.point, brPos t)) = some (true, 2, .dynHdr, 3) := by decide

/-- V-INF-11: type 3. -/
theorem test_block_reserved : ending (step (inCall .inflate .blockHdr (atRest [7] 0 0 0))) = some (2, 1) := by decide

/-- V-INF-1, second element: the five bytes, and the end of the call. -/
theorem test_stored_lengths :
    after (step { inCall .inflate .stored (atRest [1, 5, 0, 250, 255, 72, 101, 108, 108, 111] 0 0 8) with
      inf := { Inf.init with bfinal := true } })
      (fun t => (t.status.toNat, t.out.map (·.toNat), t.resLen.toNat, t.inf.wpos)) =
      some (1, [72, 101, 108, 108, 111], 5, 5) := by decide

/-- V-INF-12: a wrong complement. -/
theorem test_stored_complement :
    ending (step (inCall .inflate .stored (atRest [1, 5, 0, 251, 255, 72, 101, 108, 108, 111] 0 0 8))) = some (2, 1) := by
  decide

/-- V-INF-3, second element (95_test_vectors.md P3): the counts, and the code lengths in the order of R106. -/
theorem test_dyn_counts :
    after (step (inCall .inflate .dynHdr (atRest [13, 192, 129, 0, 0, 0, 0, 128, 32, 214, 247, 135, 248, 112, 1] 0 0 3)))
      (fun t => (t.inf.hlit, t.inf.hdist, t.inf.hclen, t.tCl.valid, t.point)) = some (258, 1, 18, true, .clen) := by
  decide

/-- R204: a length of its own; R203: more to come. -/
theorem test_cl_len :
    after (exec (.clLen 5#4) { inCall .inflate .clen (atRest [] 0 0 0) with inf := { Inf.init with hlit := 257, hdist := 1 } })
      (fun t => (t.inf.lens, t.point)) = some ([5], .clen) := by decide

/-- R205: two extra bits, 3 to 6 copies. -/
theorem test_cl_rep :
    after (exec .clRep { inCall .inflate .clen (atRest [0b10] 0 0 0) with
      inf := { Inf.init with hlit := 257, hdist := 1, lens := [7] } }) (fun t => (t.inf.lens, brPos t)) =
      some ([7, 7, 7, 7, 7, 7], 2) := by decide

/-- R206: nothing to repeat. -/
theorem test_cl_rep_first :
    ending (exec .clRep { inCall .inflate .clen (atRest [0] 0 0 0) with inf := { Inf.init with hlit := 257, hdist := 1 } }) =
      some (2, 6) := by decide

/-- R205: three extra bits, 3 to 10 zeros. -/
theorem test_cl_zero3 :
    after (exec .clZero3 { inCall .inflate .clen (atRest [7] 0 0 0) with inf := { Inf.init with hlit := 257, hdist := 1 } })
      (fun t => (t.inf.lens.length, brPos t)) = some (10, 3) := by decide

/-- R205: seven extra bits, 11 to 138 zeros; R206: past the end. -/
theorem test_cl_zero11 :
    after (exec .clZero11 { inCall .inflate .clen (atRest [0x7F] 0 0 0) with
      inf := { Inf.init with hlit := 257, hdist := 1 } }) (fun t => (t.inf.lens.length, brPos t)) = some (138, 7) ∧
      ending (exec .clZero11 { inCall .inflate .clen (atRest [0x7F] 0 0 0) with
        inf := { Inf.init with hlit := 100, hdist := 37 } }) = some (2, 6) := by decide +kernel

/-- R207, R208: the sequence is complete; the split builds both trees. -/
theorem test_cl_last :
    after (exec (.clLen 1#4) { inCall .inflate .clen (atRest [] 0 0 0) with
      inf := { Inf.init with hlit := 2, hdist := 1, lens := [1, 1] } })
      (fun t => (t.tLl.valid, t.tLl.nodes.length, t.tD.nodes.length, t.point)) = some (true, 3, 2, .litlenCode) := by decide

/-- R211, R215: a literal goes to `OUT` and to the window. -/
theorem test_lit :
    after (exec (.lit 0x61#8) (inCall .inflate .litlenCode (atRest [] 0 0 0)))
      (fun t => (t.out.map (·.toNat), Memory.read t.win 0, t.inf.wpos, t.inf.produced)) = some ([0x61], 0x61#8, 1, 1) := by
  decide

/-- R215: the window wraps. -/
theorem test_lit_wraps :
    after (exec (.lit 0x61#8) { inCall .inflate .litlenCode (atRest [] 0 0 0) with
      inf := { Inf.init with wpos := 32767, produced := 32767 } }) (fun t => (t.inf.wpos, t.inf.produced)) =
      some (0, 32768) := by decide

/-- R192, R190: the end of a final block ends the call. -/
theorem test_eob :
    after (exec .eob { inCall .inflate .litlenCode (atRest [] 0 0 0) with
      inf := { Inf.init with bfinal := true, produced := 9 } }) (fun t => (t.status.toNat, t.resLen.toNat, t.point)) =
      some (1, 9, .idle) := by decide

/-- V-INF-8: `LEN_266` with extra bit 1 is 14; V-INF-7: `LEN_285` is 258. -/
theorem test_lengths :
    after (exec .len266 (inCall .inflate .litlenCode (atRest [1] 0 0 0))) (fun t => (t.inf.matchLen, t.point)) =
      some (14, .distCode) ∧
      after (exec .len285 (inCall .inflate .litlenCode (atRest [] 0 0 0))) (·.inf.matchLen) = some 258 := by decide

/-- R108: the last length code with extra bits, 227 + 31 = 258. -/
theorem test_len284 :
    after (exec .len284 (inCall .inflate .litlenCode (atRest [0x1F] 0 0 0))) (fun t => (t.inf.matchLen, brPos t)) =
      some (258, 5) := by decide

/-- R219: an overlapping copy repeats what it wrote (V-INF-3: `abbbb`). -/
theorem test_dist_overlap :
    outNats (exec .dist0 { inCall .inflate .distCode (atRest [] 0 0 0) with
      out := [0x61#8, 0x62#8], win := bytesAt [0x61, 0x62], inf := { Inf.init with wpos := 2, produced := 2, matchLen := 3 } }) =
      some [0x61, 0x62, 0x62, 0x62, 0x62] := by decide

/-- V-INF-8: `DIST_4` with extra bit 1 is 6; R218: one more than what was produced fails. -/
theorem test_dist4 :
    ending (exec .dist4 { inCall .inflate .distCode (atRest [1] 0 0 0) with inf := { Inf.init with produced := 5, matchLen := 3 } }) =
      some (2, 5) := by decide

/-- V-INF-15 and R214, R217: symbols without a meaning. -/
theorem test_invalid_symbols :
    ending (exec (.lenInvalid true) (inCall .inflate .litlenCode (atRest [] 0 0 0))) = some (2, 5) ∧
      ending (exec (.distInvalid false) (inCall .inflate .distCode (atRest [] 0 0 0))) = some (2, 5) := by decide

/-- R110, R166: the code `10010001` of `a`, first bit first, and the step that runs the symbol. -/
theorem test_fixed_literal :
    after (step { inCall .inflate .litlenCode (atRest [0b10001001] 0 0 0) with inf := { Inf.init with btype := 1#2 } })
      (fun t => (t.inf.sym, t.point, brPos t, outNats (step t))) = some (97, .litlenSym, 8, some [97]) := by decide

/-- R110: a 9-bit code, a 7-bit code, and an 8-bit code of the last row. -/
theorem test_fixed_rows :
    after (step { inCall .inflate .litlenCode (atRest [0b00010011, 0] 0 0 0) with inf := { Inf.init with btype := 1#2 } })
      (fun t => (t.inf.sym, brPos t)) = some (144, 9) ∧
      after (step { inCall .inflate .litlenCode (atRest [0, 0] 0 0 0) with inf := { Inf.init with btype := 1#2 } })
        (fun t => (t.inf.sym, brPos t)) = some (256, 7) ∧
      after (step { inCall .inflate .litlenCode (atRest [0b00000011, 0] 0 0 0) with inf := { Inf.init with btype := 1#2 } })
        (fun t => (t.inf.sym, brPos t)) = some (280, 8) := by decide

/-- R110: the distance code `00010` of symbol 2. -/
theorem test_fixed_distance :
    after (step { inCall .inflate .distCode (atRest [0b01000] 0 0 0) with inf := { Inf.init with btype := 1#2 } })
      (fun t => (t.inf.sym, t.point, brPos t)) = some (2, .distSym, 5) := by decide

/-! ZLB (V-ZLB). -/

/-- R240: the start, and a sequence that is too short. -/
theorem test_zlb_start :
    after (exec .zlbDecompress (atRest [120, 156, 3, 0, 0, 0, 0, 1] 0 0 0)) (fun t => (t.status.toNat, t.point)) =
      some (3, .zlibHdr) ∧
      ending (exec .zlbDecompress (atRest [120, 156, 3, 0, 0] 0 0 0)) = some (2, 3) := by decide

/-- V-ZLB-10: the header and the trailer are taken, INF starts on the bytes between. -/
theorem test_zlib_header :
    after (step (inCall .zlib .zlibHdr (atRest [120, 156, 3, 0, 0, 0, 0, 1] 0 0 0)))
      (fun t => (t.zlb.expected.toNat, t.br.base, t.br.len, t.point)) = some (1, 2, 2, .blockHdr) := by decide

/-- V-ZLB-5 to V-ZLB-8: check bits, method, dictionary, in that order of checks. -/
theorem test_zlib_header_fails :
    ending (exec (.zlibHdr 0x78#8 0x9D#8) (inCall .zlib .zlibHdr (atRest [] 0 0 0))) = some (2, 1) ∧
      ending (exec (.zlibHdr 0x79#8 0x9C#8) (inCall .zlib .zlibHdr (atRest [] 0 0 0))) = some (2, 1) ∧
      ending (exec (.zlibHdr 0x78#8 0xBB#8) (inCall .zlib .zlibHdr (atRest [] 0 0 0))) = some (2, 2) ∧
      ending (exec (.zlibHdr 0x78#8 0xBC#8) (inCall .zlib .zlibHdr (atRest [] 0 0 0))) = some (2, 1) := by decide

/-! PNG (V-PNG). -/

/-- R260, R261: the start and the signature. -/
theorem test_png_signature :
    after (exec .pngDecode (atRest [] 0 0 0)) (fun t => (t.status.toNat, t.point)) = some (3, .pngSignature) ∧
      after (step (inCall .png .pngSignature (atRest [137, 80, 78, 71, 13, 10, 26, 10] 0 0 0)))
        (fun t => (t.png.pos, t.point)) = some (8, .pngChunk) := by decide

/-- V-PNG-22: a wrong signature. -/
theorem test_png_signature_wrong :
    ending (step (inCall .png .pngSignature (atRest [136, 80, 78, 71, 13, 10, 26, 10] 0 0 0))) = some (2, 1) := by decide

/-- V-PNG-31: `IEND` before `IHDR`, with its right CRC; V-PNG-25: a wrong CRC is found first. -/
theorem test_chunk_iend :
    ending (step (inCall .png .pngChunk (atRest [0, 0, 0, 0, 73, 69, 78, 68, 174, 66, 96, 130] 0 0 0))) = some (2, 1) := by
  decide +kernel

/-- R265: a length other than 13, and a second header. -/
theorem test_chunk_ihdr :
    after (exec .chunkIhdr { inCall .png .pngChunk (atRest [] 0 0 0) with png := { Png.init with chunkLength := 13 } })
      (·.point) = some .pngIhdr ∧
      ending (exec .chunkIhdr { inCall .png .pngChunk (atRest [] 0 0 0) with png := { Png.init with chunkLength := 12 } }) =
        some (2, 1) := by decide

/-- R269: two entries; V-PNG-34: lengths 4 and 771. -/
theorem test_chunk_plte :
    after (exec .chunkPlte { inCall .png .pngChunk (atRest [0, 0, 0, 6, 80, 76, 84, 69, 1, 2, 3, 4, 5, 6] 0 0 0) with
      png := { Png.init with seenIhdr := true, chunkLength := 6 } }) (fun t => (t.png.plte, t.png.pos)) =
      some ([{ r := 1#8, g := 2#8, b := 3#8 }, { r := 4#8, g := 5#8, b := 6#8 }], 18) ∧
      ending (exec .chunkPlte { inCall .png .pngChunk (atRest [] 0 0 0) with
        png := { Png.init with seenIhdr := true, chunkLength := 771 } }) = some (2, 1) := by decide

/-- R270: the data is appended. -/
theorem test_chunk_idat :
    after (exec .chunkIdat { inCall .png .pngChunk (atRest [0, 0, 0, 2, 73, 68, 65, 84, 8, 9] 0 0 0) with
      idat := [7#8], png := { Png.init with seenIhdr := true, chunkLength := 2 } })
      (fun t => (t.idat.map (·.toNat), t.png.pos, t.point)) = some ([7, 8, 9], 14, .pngChunk) := by decide

/-- R272: any other chunk is skipped, before `IHDR` too. -/
theorem test_chunk_other :
    after (exec (.chunkOther 0x67414D41#32) { inCall .png .pngChunk (atRest [] 0 0 0) with
      png := { Png.init with pos := 8, chunkLength := 4 } }) (·.png.pos) = some 24 := by decide

/-- R265: the 13 bytes of a header, big-endian; V-PNG-29: width 0. -/
theorem test_ihdr_payload :
    after (step { inCall .png .pngIhdr (atRest [0, 0, 0, 13, 73, 72, 68, 82, 0, 0, 1, 2, 0, 0, 0, 3, 8, 2, 0, 0, 0] 0 0 0) with
      png := { Png.init with chunkLength := 13 } })
      (fun t => (t.png.width.toNat, t.png.height.toNat, t.png.bitDepth.toNat, t.png.colorType.toNat, t.point)) =
      some (258, 3, 8, 2, .pngCheck) ∧
      ending (exec (.ihdrPayload 0#32 1#32 8#8 2#8 0#8 0#8 0#8) (inCall .png .pngIhdr (atRest [] 0 0 0))) = some (2, 1) := by
  decide

/-- R266, R267; V-PNG-26 to V-PNG-28: what the header check takes and what it does not. -/
theorem test_color_check :
    after (exec .ctGray { inCall .png .pngCheck (atRest [] 0 0 0) with png := { Png.init with bitDepth := 1#8, chunkLength := 13 } })
      (fun t => (t.png.seenIhdr, t.png.pos)) = some (true, 25) ∧
      ending (exec .ctTruecolor { inCall .png .pngCheck (atRest [] 0 0 0) with png := { Png.init with bitDepth := 16#8 } }) =
        some (2, 2) ∧
      ending (exec .ctIndexed { inCall .png .pngCheck (atRest [] 0 0 0) with
        png := { Png.init with bitDepth := 8#8, interlace := 1#8 } }) = some (2, 2) ∧
      ending (exec .ctGrayAlpha { inCall .png .pngCheck (atRest [] 0 0 0) with png := { Png.init with bitDepth := 4#8 } }) =
        some (2, 2) ∧
      ending (exec (.ctInvalid 5#8) (inCall .png .pngCheck (atRest [] 0 0 0))) = some (2, 2) := by decide

/-- V-PNG-4: ten 1-bit samples; here the first three of `B2`. -/
theorem test_ct_gray :
    outNats (exec .ctGray { inCall .png .pngConvert (atRest [] 0 0 0) with
      png := { Png.init with width := 3#32, height := 1#32, bitDepth := 1#8, image := [[0xB2#8]] } }) =
      some [255, 255, 255, 0, 0, 0, 255, 255, 255] := by decide

/-- V-PNG-1: one red pixel; the record. -/
theorem test_ct_truecolor :
    after (exec .ctTruecolor { inCall .png .pngConvert (atRest [] 0 0 0) with
      png := { Png.init with width := 1#32, height := 1#32, bitDepth := 8#8, colorType := 2#8, image := [[255#8, 0#8, 0#8]] } })
      (fun t => (t.out.map (·.toNat), t.resWidth.toNat, t.resHeight.toNat, t.resChannels.toNat, t.resLen.toNat)) =
      some ([255, 0, 0], 1, 1, 3, 3) := by decide

/-- V-PNG-9 and V-PNG-10: two 2-bit indexes, one outside the palette. -/
theorem test_ct_indexed :
    outNats (exec .ctIndexed { inCall .png .pngConvert (atRest [] 0 0 0) with
      png := { Png.init with
        width := 2#32, height := 1#32, bitDepth := 2#8, image := [[0x18#8]],
        plte := [{ r := 255#8, g := 0#8, b := 0#8 }, { r := 0#8, g := 255#8, b := 0#8 }] } }) = some [255, 0, 0, 0, 255, 0] ∧
      ending (exec .ctIndexed { inCall .png .pngConvert (atRest [] 0 0 0) with
        png := { Png.init with
          width := 1#32, height := 1#32, bitDepth := 2#8, image := [[0xC0#8]],
          plte := [{ r := 255#8, g := 0#8, b := 0#8 }] } }) = some (2, 1) := by decide

/-- V-PNG-8: gray with alpha, four channels. -/
theorem test_ct_gray_alpha :
    outNats (exec .ctGrayAlpha { inCall .png .pngConvert (atRest [] 0 0 0) with
      png := { Png.init with width := 2#32, height := 1#32, bitDepth := 8#8, image := [[100#8, 255#8, 50#8, 1#8]] } }) =
      some [100, 100, 100, 255, 50, 50, 50, 1] := by decide

/-- R284: true-color with alpha passes through. -/
theorem test_ct_truecolor_alpha :
    after (exec .ctTruecolorAlpha { inCall .png .pngConvert (atRest [] 0 0 0) with
      png := { Png.init with width := 1#32, height := 1#32, bitDepth := 8#8, image := [[1#8, 2#8, 3#8, 4#8]] } })
      (fun t => (t.out.map (·.toNat), t.resChannels.toNat)) = some ([1, 2, 3, 4], 4) := by decide

/-- A row of two true-color pixels to reconstruct, with the row before it. -/
def rowState (filtered previous : List Nat) : State :=
  { inCall .png .pngRow (atRest [] 0 0 0) with
    raw := 0#8 :: filtered.map (BitVec.ofNat 8),
    png := { Png.init with
      width := 2#32, height := 1#32, bitDepth := 8#8, colorType := 2#8, prev := previous.map (BitVec.ofNat 8) } }

/-- The reconstructed row as numbers. -/
def rowNats (o : Out) : Option (List Nat) := after o fun t => t.png.cur.map (·.toNat)

/-- V-PNG-F1. -/
theorem test_filter_none : rowNats (exec .filterNone (rowState [0xC8, 1, 2, 3, 4, 5] [9, 9, 9, 9, 9, 9])) = some [0xC8, 1, 2, 3, 4, 5] := by
  decide

/-- V-PNG-F2. -/
theorem test_filter_sub :
    rowNats (exec .filterSub (rowState [0x0A, 0x14, 0x1E, 0x05, 0xFA, 0x07] [9, 9, 9, 9, 9, 9])) =
      some [0x0A, 0x14, 0x1E, 0x0F, 0x0E, 0x25] := by decide

/-- V-PNG-F3. -/
theorem test_filter_up :
    rowNats (exec .filterUp (rowState [1, 2, 3, 4, 5, 6] [0x0A, 0x14, 0x1E, 0x0F, 0x0E, 0x25])) =
      some [0x0B, 0x16, 0x21, 0x13, 0x13, 0x2B] := by decide

/-- V-PNG-F4. -/
theorem test_filter_average :
    rowNats (exec .filterAverage (rowState [9, 9, 9, 0x64, 0x64, 0x64] [0x0B, 0x16, 0x21, 0x13, 0x13, 0x2B])) =
      some [0x0E, 0x14, 0x19, 0x74, 0x77, 0x86] := by decide

/-- V-PNG-F5. -/
theorem test_filter_paeth :
    rowNats (exec .filterPaeth (rowState [1, 1, 1, 2, 2, 2] [0x0E, 0x14, 0x19, 0x74, 0x77, 0x86])) =
      some [0x0F, 0x15, 0x1A, 0x76, 0x79, 0x88] := by decide

/-- 95_test_vectors.md, the values of `PaethPredictor`. -/
theorem test_paeth_values :
    paeth 10#8 20#8 30#8 = 10#8 ∧ paeth 50#8 60#8 40#8 = 60#8 ∧ paeth 100#8 50#8 75#8 = 75#8 ∧ paeth 0#8 255#8 0#8 = 255#8 ∧
      paeth 1#8 2#8 3#8 = 1#8 ∧ paeth 20#8 10#8 15#8 = 15#8 := by decide

/-- R281: filter type 5. -/
theorem test_filter_invalid : ending (exec (.filterInvalid 5#8) (inCall .png .pngRow (atRest [] 0 0 0))) = some (2, 1) := by
  decide

/-! JPEG units (V-JC, V-DQ, V-IDCT, V-CC). -/

/-- The DC table of the standard pair. -/
def dcCounts : List Nat := [0, 1, 5, 1, 1, 1, 1, 1, 1, 0, 0, 0, 0, 0, 0, 0]

/-- The AC table of the standard pair. -/
def acCounts : List Nat := [0, 2, 2, 1, 0, 0, 0, 0, 0, 0, 0, 0, 0, 0, 0, 0]

/-- The standard pair in slots 8 and 12, the data at the cursor, a block to decode. -/
def blockState (data : List Nat) (p : Point) : State :=
  { inCall (.block 0) p (atRest data 0 0 0) with
    jdc := [jbuildTree dcCounts [0, 1, 2, 3, 4, 5, 6, 7, 8, 9, 10, 11], .absent, .absent, .absent],
    jac := [jbuildTree acCounts [0x00, 0x01, 0xF0, 0x11, 0x23], .absent, .absent, .absent] }

/-- 45_jpeg_entropy.md R302: the two tables have 24 and 11 nodes. -/
theorem test_jhuf_build :
    after (exec .jhufBuild (atRest (acCounts ++ [0x00, 0x01, 0xF0, 0x11, 0x23]) 12 0 0))
      (fun t => ((t.jac.getD 0 .absent).valid, (t.jac.getD 0 .absent).nodes.length)) = some (true, 11) ∧
      (jbuildTree dcCounts [0, 1, 2, 3, 4, 5, 6, 7, 8, 9, 10, 11]).nodes.length = 24 := by decide +kernel

/-- R308: the predictors are cleared and the cursor is placed. -/
theorem test_jc_reset :
    after (exec .jcReset { atRest [1, 2, 3] 2 0 0 with pred := [5, 6, 7] }) (fun t => (t.pred, t.jbr.pos, t.jbr.cnt)) =
      some ([0, 0, 0], 2, 0) := by decide

/-- V-JC-1, first element: `010` is category 1, and the bit 1 a difference of 1. -/
theorem test_jc_dc :
    after (step (blockState [0x55, 0x73, 0x28, 0xA7] .jpegDc))
      (fun t => (t.coef.getD 0 9, t.pred.getD 0 9, t.jbr.pos, t.jbr.cnt, t.point)) = some (1, 1, 1, 4, .jpegAc) := by
  decide +kernel

/-- V-JC-1, second element: `01` is run 0, size 1, and the bit 0 a value of -1. -/
theorem test_jc_ac :
    after (step { blockState [0x55, 0x73, 0x28, 0xA7] .jpegAc with
      jbr := { pos := 1, acc := 0x55#8, cnt := 4 }, jc := { Jc.init with k := 1 } })
      (fun t => (t.coef.getD 1 9, t.jc.k, t.jbr.cnt)) = some (-1, 2, 1) := by decide +kernel

/-- R310: `JC_BLOCK` starts with the DC symbol; R300: a table that is not valid. -/
theorem test_jc_block :
    after (exec .jcBlock { blockState [0] .idle with status := 0#8, running := none }) (fun t => (t.status.toNat, t.point)) =
      some (3, .jpegDc) ∧
      refusalOf (exec .jcBlock (atRest [0] 0 0 0)) = some .treeNotValid := by decide +kernel

/-- R313, R310: the end of the block of a command. -/
theorem test_ac_eob :
    after (exec .acEob { inCall (.block 1) .jpegAc (atRest [] 0 0 0) with coef := (-1) :: List.replicate 63 0 })
      (fun t => (t.status.toNat, t.resValue.toNat)) = some (1, 0xFFFFFFFF) := by decide

/-- V-JC-4: a run of 16 from 1 to 17; V-JC-5: the fourth one ends the block. -/
theorem test_ac_zrl :
    after (exec .acZrl { inCall (.block 0) .jpegAc (atRest [] 0 0 0) with jc := { Jc.init with k := 1 } })
      (fun t => (t.jc.k, t.point)) = some (17, .jpegAc) ∧
      after (exec .acZrl { inCall (.block 0) .jpegAc (atRest [] 0 0 0) with jc := { Jc.init with k := 49 } })
        (fun t => (t.status.toNat, t.point)) = some (1, .idle) := by decide

/-- V-JC-4: the last place, and no end symbol; V-JC-6: one place too far. -/
theorem test_ac_runsize :
    after (exec (.acRunsize 0xE1#8) { inCall (.block 0) .jpegAc (atRest [0] 0 0 0) with jc := { Jc.init with k := 49 } })
      (fun t => (t.coef.getD 63 9, t.status.toNat)) = some (-1, 1) ∧
      ending (exec (.acRunsize 0xF1#8) { inCall (.block 0) .jpegAc (atRest [0] 0 0 0) with jc := { Jc.init with k := 49 } }) =
        some (2, 4) := by decide

/-- V-JC-2: a stuffed byte; V-JC-10: a marker where data is needed. -/
theorem test_jbr_stuffing :
    (jbrReceive (atRest [0xFF, 0x00, 0x40] 0 0 0) 10 0 { pos := 0, acc := 0#8, cnt := 0 }).map (fun x => (x.1, x.2.pos, x.2.cnt)) =
      some (0b1111111101, 3, 6) ∧
      (jbrReceive (atRest [0xFF, 0xD9] 0 0 0) 1 0 { pos := 0, acc := 0#8, cnt := 0 }).isNone = true := by decide

/-- R309: sign and magnitude; V-JC-8: category 12. -/
theorem test_extend :
    extend 0 1 = -1 ∧ extend 1 1 = 1 ∧ extend 5 3 = 5 ∧ extend 2 3 = -5 ∧ extend 0 11 = -2047 ∧
      ending (exec (.dcInvalid 12#8) (inCall (.block 0) .jpegDc (atRest [] 0 0 0))) = some (2, 4) := by decide

/-- V-DQ-1, V-DQ-3: a table is loaded; a zero entry leaves it undefined. -/
theorem test_jdq_load :
    after (exec .jdqLoad (atRest ((List.range 64).map (· + 1)) 2 0 0))
      (fun t => (quantEntry t 2 63, t.qtDef, t.qtPrec)) = some (64, [false, false, true, false], [false, false, false, false]) ∧
      after (exec .jdqLoad { atRest (List.replicate 63 1 ++ [0]) 2 0 0 with qtDef := [true, true, true, true] })
        (fun t => (t.errkind.toNat, t.qtDef)) = some (6, [true, true, false, true]) := by decide +kernel

/-- V-DQ-2: products at both clamps, and one below them. -/
theorem test_jdq_block :
    after (exec .jdqBlock { atRest [] 1 0 0 with
      qtDef := [false, true, false, false],
      qt := [[], [255, 65535, 256, 258, 1, 16] ++ List.replicate 58 1, [], []],
      coef := [1000, -1, -128, 127, -32768, -2047] ++ List.replicate 58 0 }) (fun t => t.dq.take 6) =
      some [32767, -32768, -32768, 32766, -32768, -32752] := by decide +kernel

/-- V-IDCT-3: one horizontal frequency. -/
theorem test_jidct :
    after (exec .jidctBlock { atRest [] 0 0 0 with dq := [0, 100] ++ List.replicate 62 0 })
      (fun t => (t.samp.drop 24).take 8 |>.map (·.toNat)) = some [145, 143, 138, 131, 125, 118, 113, 111] := by
  decide +kernel

/-- V-IDCT-5: the last coefficient, row 2 of the samples. -/
theorem test_jidct_last :
    after (exec .jidctBlock { atRest [] 0 0 0 with dq := List.replicate 63 0 ++ [200] })
      (fun t => (t.samp.drop 16).take 8 |>.map (·.toNat)) = some [136, 105, 163, 87, 169, 93, 151, 120] := by decide +kernel

/-- V-CC-1. -/
theorem test_jcc :
    after (exec .jccPixel (atRest [] 0x00FF554C 0 0)) (·.resValue.toNat) = some 0xFE ∧
      after (exec .jccPixel (atRest [] (128 + 73 * 256 + 137 * 65536) 0 0)) (·.resValue.toNat) =
        some (141 + 140 * 256 + 31 * 65536) ∧
      after (exec .jccGray (atRest [] 0x8A 0 0)) (·.resValue.toNat) = some 0x8A8A8A := by decide

/-! JDEC (V-JPG). -/

/-- R360, R361: the start and the first marker; V-JPG-11: another one. -/
theorem test_jpeg_soi :
    after (exec .jpegDecode (atRest [] 0 0 0)) (fun t => (t.status.toNat, t.point)) = some (3, .jpegSoi) ∧
      after (step (inCall (.jpeg none) .jpegSoi (atRest [0xFF, 0xD8] 0 0 0))) (fun t => (t.jdec.pos, t.point)) =
        some (2, .jpegMarker) ∧
      ending (step (inCall (.jpeg none) .jpegSoi (atRest [0xFF, 0xD9] 0 0 0))) = some (2, 1) := by decide

/-- R365: the fields of a frame header. -/
theorem test_sof0 :
    after (step (inCall (.jpeg none) .jpegMarker (atRest [0xFF, 0xC0, 0, 11, 8, 0, 8, 1, 2, 1, 1, 0x22, 0] 0 0 0)))
      (fun t => (t.jdec.height, t.jdec.width, t.jdec.comps, t.jdec.pos, t.jdec.seenSof)) =
      some (8, 258, [{ id := 1#8, h := 2, v := 2, tq := 0 }], 13, true) := by decide

/-- V-JPG-18, V-JPG-19: precision 12, width 0. -/
theorem test_sof0_fails :
    ending (step (inCall (.jpeg none) .jpegMarker (atRest [0xFF, 0xC0, 0, 11, 12, 0, 8, 0, 8, 1, 1, 0x11, 0] 0 0 0))) = some (2, 2) ∧
      ending (step (inCall (.jpeg none) .jpegMarker (atRest [0xFF, 0xC0, 0, 11, 8, 0, 8, 0, 0, 1, 1, 0x11, 0] 0 0 0))) =
        some (2, 1) := by decide

/-- V-JPG-16: the other frame types. -/
theorem test_other_frames :
    (([.mSof1, .mSof2, .mSof3, .mSof5, .mSof6, .mSof7] ++ [.mSof9, .mSof10, .mSof11, .mSof13, .mSof14, .mSof15] : List Instr)).all
      (fun i => ending (exec i (inCall (.jpeg none) .jpegMarker (atRest [] 0 0 0))) == some (2, 2)) = true := by decide

/-- R368, R330: a 16-bit table is high byte first; V-JPG-23: a table id of 4. -/
theorem test_dqt :
    after (step (inCall (.jpeg none) .jpegMarker (atRest ([0xFF, 0xDB, 0, 131, 0x11] ++ (List.replicate 64 [1, 44]).flatten) 0 0 0)))
      (fun t => (quantEntry t 1 0, quantEntry t 1 63, t.qtDef, t.qtPrec)) =
      some (300, 300, [false, true, false, false], [false, true, false, false]) ∧
      ending (step (inCall (.jpeg none) .jpegMarker (atRest ([0xFF, 0xDB, 0, 67, 4] ++ List.replicate 64 1) 0 0 0))) =
        some (2, 1) := by decide +kernel

/-- R370: class 1, id 0 is slot 12. -/
theorem test_dht :
    after (step (inCall (.jpeg none) .jpegMarker
        (atRest ([0xFF, 0xC4, 0, 24, 0x10] ++ acCounts ++ [0x00, 0x01, 0xF0, 0x11, 0x23]) 0 0 0)))
      (fun t => ((t.jac.getD 0 .absent).nodes.length, t.jdec.pos)) = some (11, 26) := by decide +kernel

/-- R369: the restart interval; a payload of another length. -/
theorem test_dri :
    after (step (inCall (.jpeg none) .jpegMarker (atRest [0xFF, 0xDD, 0, 4, 1, 2] 0 0 0))) (·.jdec.restartInterval) = some 258 ∧
      ending (step (inCall (.jpeg none) .jpegMarker (atRest [0xFF, 0xDD, 0, 3, 1] 0 0 0))) = some (2, 1) := by decide

/-- A frame of one component with its tables, before a scan header at the start of the input. -/
def scanState (data : List Nat) : State :=
  { blockState data .jpegMarker with
    running := some (.jpeg none), qtDef := [true, false, false, false],
    jdec := { Jdec.init with
      seenSoi := true, seenSof := true, ncomp := 1, width := 8, height := 8, comps := [{ id := 1#8, h := 1, v := 1, tq := 0 }] } }

/-- R373 to R378: the scan starts; V-JPG-25: a spectral end of 62. -/
theorem test_sos :
    after (step (scanState [0xFF, 0xDA, 0, 8, 1, 1, 0, 0, 63, 0, 0xF5])) (fun t => (t.jdec.pos, t.jbr.pos, t.point)) =
      some (10, 10, .jpegDc) ∧
      ending (step (scanState [0xFF, 0xDA, 0, 8, 1, 1, 0, 0, 62, 0, 0xF5])) = some (2, 2) := by decide +kernel

/-- R384, R385: the restart that is due; another one fails. -/
theorem test_rst :
    after (exec (.mRst 3#3) { scanState [] with
      point := .jpegRestart, pred := [5, 6, 7], jbr := { pos := 20, acc := 0#8, cnt := 5 },
      jdec := { Jdec.init with rstNext := 3, restartInterval := 2 } })
      (fun t => (t.pred, t.jbr.pos, t.jbr.cnt, t.jdec.rstNext, t.jdec.mcuLeft, t.point)) =
      some ([0, 0, 0], 22, 0, 4, 1, .jpegDc) ∧
      ending (exec (.mRst 4#3) { scanState [] with point := .jpegRestart, jdec := { Jdec.init with rstNext := 3 } }) =
        some (2, 1) := by decide +kernel

/-- V-JPG-14: a length of 1; R364: a segment that is skipped. -/
theorem test_other_segment :
    ending (step (inCall (.jpeg none) .jpegMarker (atRest [0xFF, 0xE0, 0, 1, 0xFF, 0xD9] 0 0 0))) = some (2, 1) ∧
      after (step (inCall (.jpeg none) .jpegMarker (atRest [0xFF, 0xE0, 0, 4, 9, 9] 0 0 0))) (·.jdec.pos) = some 6 := by decide

/-- R371, R388: a gray picture of two pixels; V-JPG-12: no scan before `EOI`. -/
theorem test_eoi :
    after (exec .mEoi { inCall (.jpeg none) .jpegMarker (atRest [] 0 0 0) with
      plane := [bytesAt [7, 9], [], []],
      jdec := { Jdec.init with
        seenSos := true, width := 2, height := 1, ncomp := 1, comps := [{ id := 1#8, h := 1, v := 1, tq := 0 }] } })
      (fun t => (t.status.toNat, t.out.map (·.toNat), t.resLen.toNat)) = some (1, [7, 7, 7, 9, 9, 9], 6) ∧
      ending (exec .mEoi (inCall (.jpeg none) .jpegMarker (atRest [] 0 0 0))) = some (2, 1) := by decide

/-! The host (R22, R102, R440). -/

/-- R100, U2, U16: an undefined code, and a command while a call runs. -/
theorem test_host_commands :
    refusalOf (step { State.reset with host := [.writeReg 0 7#32] }) = some .illegalCommand ∧
      refusalOf (exec .brReset (inCall .inflate .blockHdr State.reset)) = some .commandWhileBusy := by decide

/-- R22: a read of `STATUS`, a write of `ARG0`; register 13 does not exist, register 4 is not read. -/
theorem test_host_registers :
    after (step { State.reset with status := 2#8, host := [.readReg 1] }) (·.hostRead) = some [2] ∧
      after (step { State.reset with host := [.writeReg 4 9#32] }) (·.arg0.toNat) = some 9 ∧
      refusalOf (step { State.reset with host := [.readReg 13] }) = some .noSuchRegister ∧
      refusalOf (step { State.reset with host := [.readReg 4] }) = some .writeOnlyRegister := by decide

/-- R102: the unit buffers. -/
theorem test_host_buffers :
    after (step { State.reset with host := [.writeBuf .coef 63 (-5)] }) (·.coef.getD 63 0) = some (-5) ∧
      after (step { State.reset with samp := List.replicate 64 8#8, host := [.readBuf .samp 5] }) (·.hostRead) = some [8] ∧
      refusalOf (step { State.reset with host := [.writeBuf .dq 0 32768] }) = some .hostAccess := by decide

/-- A table word placed where the machine fetches runs as the first step (log 2). -/
theorem test_fetch_word :
    after (step (State.reset.withFetchWord 9 97)) (fun t => t.out.map (·.toNat)) = some [97] ∧
      after (step (State.reset.withFetchWord 8 0x55)) (·.status.toNat) = some 1 ∧
      decodeTableWord 9 97 = some (.lit 97#8) ∧ decodeTableWord 8 0x55 = some .jidctBlock := by decide +kernel

/-! Witnesses: for each statement with hypotheses, states and operands that meet them, clause by clause. -/

theorem atRest_ready (l : List Nat) (a0 a1 p : Nat) : (atRest l a0 a1 p).Ready :=
  ⟨rfl, by show (0#8 : Byte) ≠ statusBusy; decide⟩

theorem reset_ready : State.reset.Ready := ⟨rfl, by decide⟩

/-- ResetGivesTheStatedValues. -/
theorem witness_reset :
    ({ State.reset with host := [.reset, .readReg 1] } : State).point = .idle ∧
      ({ State.reset with host := [.reset, .readReg 1] } : State).host = .reset :: [.readReg 1] := ⟨rfl, rfl⟩

/-- INF about to run the literal `A`: a state inside a call that meets every invariant. -/
def literalState : State := { inCall .inflate .litlenSym (atRest [3, 0] 0 0 3) with inf := { Inf.init with sym := 65 } }

theorem literalState_legal : literalState.Legal :=
  ⟨by decide, by decide, by decide, by decide, by decide⟩

/-- StepKeepsMemoryCanonical, StepKeepsReadOnlyTables, StepKeepsStatusLegal, StepKeepsCursorsInRange,
StepKeepsRegisterFilesSized, CallEndsOnlyByItsRule. -/
theorem witness_invariants :
    literalState.Canonical ∧ literalState.Constants ∧ literalState.Legal ∧ literalState.CursorOk ∧ literalState.Sized ∧
      literalState.point ≠ .idle ∧ ∃ t, step literalState = .next t := by
  refine ⟨⟨by decide, by decide, by decide⟩, ⟨rfl, rfl, rfl⟩, literalState_legal,
    ⟨fun _ => ⟨by decide, fun _ => by decide⟩, fun _ => by decide⟩, ?_, by decide, _, rfl⟩
  exact ⟨by decide, by decide +kernel, by decide, by decide, by decide, by decide, by decide +kernel, by decide, by decide, by decide,
    by decide, by decide⟩

/-- StepKeepsCursorsInRange, second part: BR on `IDAT` while a PNG is decoded, with a block header to read; and at rest. -/
def idatState : State :=
  { inCall .png .blockHdr State.reset with idat := [1#8], br := { space := .idat, base := 0, len := 1, bytePos := 0, bitPos := 0#3 } }

theorem witness_idat :
    idatState.IdatOnlyInPng ∧ idatState.brLive = true ∧ idatState.br.space = .idat ∧ (∃ t, step idatState = .next t) ∧
      literalState.IdatOnlyInPng ∧ (cutToInput 2 idatState.br).Inside 2 :=
  ⟨fun _ _ => ⟨rfl, by decide⟩, rfl, rfl, ⟨_, rfl⟩, fun _ h => (by cases h), cutToInput_inside 2 _⟩

/-- StepKeepsWindowInStep: a byte in the window, and a copy of it to come. -/
def copyState : State :=
  { inCall .inflate .distSym (atRest [3, 0] 0 0 3) with
    out := [7#8], win := [(0, 7#8)], inf := { Inf.init with sym := 0, matchLen := 3, wpos := 1, produced := 1 } }

theorem copyState_window : copyState.WindowOk := by
  refine fun _ => ⟨rfl, rfl, fun d h1 _ h3 => ?_⟩
  have hd : d = 1 := Nat.le_antisymm h3 h1
  subst hd; decide

/-- StepKeepsWindowInStep, InflateAlwaysAdvances, DistanceCodesCopyTheMatch. -/
theorem witness_window :
    copyState.Canonical ∧ copyState.WindowOk ∧ copyState.point.inflating = true ∧ 1 ≤ copyState.inf.produced ∧
      after (step copyState) (fun t => (t.point.inflating, t.out.length)) = some (true, 4) :=
  ⟨⟨by decide, by decide, by decide⟩, copyState_window, rfl, by decide, by decide⟩

/-- StepKeepsPngHeaderChecked: a header about to be checked; and a decode that goes on after it. -/
theorem witness_header :
    ({ inCall .png .pngCheck State.reset with
      png := { Png.init with width := 1#32, height := 1#32, bitDepth := 8#8 } } : State).HeaderOk ∧
      ({ inCall .png .pngConvert State.reset with
        png := { Png.init with width := 1#32, height := 1#32, bitDepth := 8#8, seenIhdr := true } } : State).HeaderOk ∧
      after (step { inCall .png .pngCheck State.reset with
        png := { Png.init with width := 1#32, height := 1#32, bitDepth := 8#8 } }) (·.png.seenIhdr) = some true := by
  refine ⟨fun _ => ⟨?_, ?_, fun _ => ⟨rfl, by decide, by decide⟩, ?_⟩, fun _ => ⟨fun _ => ?_, ?_, ?_, fun _ => rfl⟩, by decide⟩
  · exact fun h => Bool.noConfusion h
  · exact fun h => Point.noConfusion h
  · exact fun h => by rcases h with h | h | h | h <;> cases h
  · exact ⟨by decide, by decide, rfl, rfl, rfl, .inl ⟨rfl, by decide⟩⟩
  · exact fun h => Point.noConfusion h
  · exact fun h => Point.noConfusion h

/-- NoInstructionTouchesTheHostsThings, CommandsDoNotReadTheLastOutcome. -/
theorem witness_commands :
    (∃ t, exec .brReset State.reset = .next t) ∧ (∃ t, exec .jpegDecode State.reset = .next t) ∧ formatOf .jccGray = .cmd ∧ (atRest [] 5 0 0).Ready ∧
      (2#8 : Byte) ≠ statusBusy := ⟨⟨_, rfl⟩, ⟨_, rfl⟩, rfl, atRest_ready _ _ _ _, by decide⟩

/-- JpegNeverEndsInvalidBackreference. -/
theorem witness_jpeg :
    (scanState [0xFF, 0xE0, 0, 2]).running = some (.jpeg none) ∧ (scanState [0xFF, 0xE0, 0, 2]).errkind = 0#8 ∧
      (scanState [0xFF, 0xE0, 0, 2]).point.inJpeg = true ∧
      after (step (scanState [0xFF, 0xE0, 0, 2])) (·.jdec.pos) = some 4 := ⟨rfl, rfl, rfl, by decide +kernel⟩

/-- DecodeOfEncodeIsTheInstruction, DecodedInstructionsAreWellFormed. -/
theorem witness_encodings :
    (Instr.fixll144to255 255#9).wellFormed = true ∧ (Instr.mOther 0xFE#8).wellFormed = true ∧
      decodesTo .fixedLL [(511, .fixll144to255 255#9)] = true := by decide

/-- StepRunsTheDecodedInstruction: an element, a failing fetch, a refused fetch, a command, an undefined code, and a
command while a call runs. -/
theorem witness_step :
    (literalState.point ≠ .idle ∧ fetch literalState = .element .litlen 65 literalState ∧ decodesTo .litlen [(65, .lit 65#8)] = true) ∧
      fetch (inCall .inflate .blockHdr (atRest [] 0 0 0)) = .fail .truncatedStream (inCall .inflate .blockHdr (atRest [] 0 0 0)) ∧
      fetch (inCall .inflate .clen (atRest [] 0 0 0)) = .refuse .treeNotValid ∧
      decodesTo .cmd [((1#32 : Word).toNat % 256, .brReset)] = true ∧
      (match decode .cmd ((0#32 : Word).toNat % 256) with
        | .ok _ => false
        | .error _ => true) = true ∧ ¬ literalState.Ready :=
  ⟨⟨by decide, rfl, by decide⟩, rfl, rfl, by decide, by decide, fun h => by cases h.1⟩

/-- FetchReadsAtTheCursor: each field exactly there and one bit short; a code of one bit, a missing child, the end of
the bits, a slot without a tree. -/
theorem witness_fetch_bits :
    brUnread (inCall .inflate .blockHdr (atRest [7] 0 0 5)) = 3 ∧ brUnread (inCall .inflate .blockHdr (atRest [7] 0 0 6)) = 2 ∧
      brUnread (inCall .inflate .stored (atRest [0, 0, 0, 0] 0 0 0)) = 32 ∧
      brUnread (inCall .inflate .dynHdr (atRest [0, 0] 0 0 2)) = 14 ∧ (loneTree 5).valid = true ∧
      1 ≤ brUnread (inCall .inflate .clen (atRest [0] 0 0 7)) ∧
      treeCode (loneTree 5).nodes 0 (nextBits (inCall .inflate .clen (atRest [0] 0 0 7)) 1) = some 5 ∧
      treePath (loneTree 5).nodes 0 (nextBits (inCall .inflate .clen (atRest [1] 0 0 0)) 0) = some 0 ∧
      childOf (loneTree 5).nodes 0 (brBit (inCall .inflate .clen (atRest [1] 0 0 0)) 0) = none ∧
      brUnread (inCall .inflate .clen (atRest [] 0 0 0)) = 0 ∧ (inCall .inflate .clen State.reset).tCl.valid = false ∧
      (inCall .inflate .litlenCode State.reset).inf.btype ≠ 1#2 := by
  decide

/-- FetchReadsAtTheCursor: the signature, a chunk and a marker that just fit, each one byte short; a marker that is due
and a byte pair that is none. -/
theorem witness_fetch_bytes :
    inLength (atRest [0x89, 0x50, 0x4E, 0x47, 0x0D, 0x0A, 0x1A, 0x0A] 0 0 0) = 8 ∧
      inBytes (atRest [0x89, 0x50, 0x4E, 0x47, 0x0D, 0x0A, 0x1A, 0x0A] 0 0 0) 0 8 =
        [0x89#8, 0x50#8, 0x4E#8, 0x47#8, 0x0D#8, 0x0A#8, 0x1A#8, 0x0A#8] ∧
      inLength (atRest [0x89, 0x50, 0x4E, 0x47, 0x0D, 0x0A, 0x1A] 0 0 0) < 8 ∧
      inLength (inCall .png .pngChunk (atRest [0, 0, 0, 0, 73, 69, 78, 68, 174, 66, 96, 130] 0 0 0)) = 0 + 12 + 0 ∧
      inLength (inCall .png .pngChunk (atRest [0, 0, 0, 0, 73, 69, 78, 68, 174, 66, 96] 0 0 0)) < 0 + 12 + 0 ∧
      (inCall (.jpeg none) .jpegMarker (atRest [0xFF, 0xD9] 0 0 0)).jdec.pos + 2 = inLength (atRest [0xFF, 0xD9] 0 0 0) ∧
      inLength (atRest [0xFF] 0 0 0) < (inCall (.jpeg none) .jpegMarker (atRest [0xFF] 0 0 0)).jdec.pos + 2 ∧
      (atRest [0xFF, 0xD0] 0 0 0).jbr.pos + 2 ≤ inLength (atRest [0xFF, 0xD0] 0 0 0) ∧
      (inByte (atRest [0xFF, 0xD0] 0 0 0) 1).toNat = 0xD0 + Jdec.init.rstNext ∧ inByte (atRest [0xFF, 0x00] 0 0 0) 1 = 0x00#8 := by
  decide

/-- HostReadsAndWritesRegisters: each kind of operation is the first in some queue, at the ends of its ranges. -/
theorem witness_host :
    (∀ op ∈ [HostOp.writeReg 4 0#32, .writeReg 7 0xFFFFFFFF#32, .writeReg 1 0#32, .writeReg 3 0#32, .writeReg 8 0#32] ++
      [.writeReg 12 0#32, .writeReg 13 0#32, .readReg 1, .readReg 12, .readReg 13, .readReg 0, .readReg 7, .writeInput 0#32 1#8] ++
      [.writeBuf .coef 63 1, .writeBuf .dq 63 32767, .writeBuf .dq 0 (-32768), .writeBuf .dq 0 32768, .writeBuf .coef 64 0] ++
      [.writeBuf .pred 2 (-1), .writeBuf .qt (64 * 3 + 63) 65535, .writeBuf .qtDef 3 1, .writeBuf .qtPrec 0 0] ++
      [.writeBuf .samp 0 0, .writeBuf .qt 0 65536, .writeBuf .qtDef 0 2, .readBuf .coef 63, .readBuf .samp 63] ++
      [.readBuf .dq 64, .readBuf .qt (64 * 3 + 63), .readBuf .qt (64 * 4 + 0), .readBuf .qtPrec 0, .readOut 0],
      ({ State.reset with host := [op] } : State).point = .idle ∧ ({ State.reset with host := [op] } : State).host = op :: []) ∧
      State.reset.host = [] ∧ State.reset.coef[63]? = some 0 ∧ State.reset.dq.length ≤ 64 ∧
      (State.reset.samp.map fun b => (b.toNat : Int))[63]? = some 0 ∧ (State.reset.qt.getD 3 [])[63]? = some 0 ∧
      (State.reset.qt.getD 4 []).length ≤ 0 ∧ ({ State.reset with out := [5#8] } : State).out[0]? = some 5#8 :=
  ⟨fun _ _ => ⟨rfl, rfl⟩, rfl, by decide, by decide, by decide, by decide, by decide, rfl⟩

/-- BitReadsReturnTheNextBits: counts 1 and 32, the last bits and one too many, and the counts 0 and 33. -/
theorem witness_bit_reads :
    (atRest [0, 0, 0, 0] 32 0 0).Ready ∧ (atRest [0, 0, 0, 0] 32 0 0).brLive = true ∧
      (atRest [0, 0, 0, 0] 32 0 0).arg0.toNat = 32 ∧ brUnread (atRest [0, 0, 0, 0] 32 0 0) = 32 ∧
      brUnread (atRest [0, 0, 0, 0] 32 0 1) < 32 ∧ (atRest [0] 1 0 7).arg0.toNat = 1 ∧ brUnread (atRest [0] 1 0 7) = 1 ∧
      brUnread (atRest [0] 1 0 8) = 0 ∧ (atRest [] 0 0 0).arg0.toNat = 0 ∧ (atRest [] 33 0 0).arg0.toNat = 33 :=
  ⟨atRest_ready _ _ _ _, rfl, by decide, by decide, by decide, by decide, by decide, by decide, by decide, by decide⟩

/-- AlignAndReadBytesStartAtTheNextByte: the bytes that remain after the alignment, and one more (V-BR-13, V-BR-14). -/
theorem witness_read_bytes :
    (atRest [1, 2, 3] 2 0 7).Ready ∧ (atRest [1, 2, 3] 2 0 7).brLive = true ∧
      (atRest [1, 2, 3] 2 0 7).arg0.toNat = (atRest [1, 2, 3] 2 0 7).br.len - (brPos (atRest [1, 2, 3] 2 0 7) + 7) / 8 ∧
      (atRest [1, 2, 3] 3 0 7).br.len - (brPos (atRest [1, 2, 3] 3 0 7) + 7) / 8 < (atRest [1, 2, 3] 3 0 7).arg0.toNat :=
  ⟨atRest_ready _ _ _ _, rfl, by decide, by decide⟩

/-- ClosedCursorsAreRefused. -/
theorem witness_closed :
    ({ State.reset with brLive := false, jbrLive := false } : State).Ready ∧
      ({ State.reset with brLive := false } : State).brLive = false ∧
      ({ State.reset with jbrLive := false } : State).jbrLive = false := ⟨⟨rfl, by decide⟩, rfl, rfl⟩

/-- HufBuildsStoreTheirTrees: one length and 288, admitted and not, and what is refused. -/
theorem witness_huf_build :
    (atRest [1] 1 0 0).Ready ∧ inLength (atRest [1] 1 0 0) = 1 ∧ admitted [1] 15 = true ∧ admitted [1, 1, 1] 15 = false ∧
      admitted (List.replicate 288 9) 15 = true ∧ (atRest [] 288 0 0).arg0.toNat = 288 ∧ (atRest [] 289 0 0).arg0.toNat = 289 ∧
      inLength (atRest [] 1 0 0) < (atRest [] 1 0 0).arg0.toNat ∧ State.reset.Constants :=
  ⟨atRest_ready _ _ _ _, by decide, by decide, by decide, by decide +kernel, by decide, by decide, by decide, rfl, rfl, rfl⟩

/-- CanonicalCodesDecodeToTheirSymbols: the last symbol of V-HUF-1 and of a one-symbol array; a JPEG table of lengths 1,
3 and 3. -/
theorem witness_canonical :
    admitted [3, 3, 3, 3, 3, 2, 4, 4] 15 = true ∧ canonicalBits [3, 3, 3, 3, 3, 2, 4, 4] 7 = [true, true, true, true] ∧
      treeCode (buildTree [3, 3, 3, 3, 3, 2, 4, 4] 15).nodes 0 [false, false] = some 5 ∧
      canonicalBits [3, 3, 3, 3, 3, 2, 4, 4] 5 = [false, false] ∧ admitted [1] 1 = true ∧ canonicalBits [1] 0 = [false] ∧
      ([1, 0, 2] ++ List.replicate 13 0).length = 16 ∧ [7, 8, 9].length = ([1, 0, 2] ++ List.replicate 13 0).sum ∧
      jadmitted ([1, 0, 2] ++ List.replicate 13 0) = true ∧ jpegLengths ([1, 0, 2] ++ List.replicate 13 0) = [1, 3, 3] ∧
      canonicalBits (jpegLengths ([1, 0, 2] ++ List.replicate 13 0)) 2 = [true, false, true] := by
  decide +kernel

/-- HufDecodeReturnsTheSymbol: a leaf on the last bit, a missing child, the end of the bits, a slot without a tree. -/
theorem witness_huf_decode :
    (atRest [0] 5 0 7).Ready ∧ (atRest [0] 5 0 7).brLive = true ∧
      userSlot { atRest [0] 5 0 7 with tUser := loneTree 9 } 5 = some (loneTree 9) ∧ (loneTree 9).valid = true ∧
      treeCode (loneTree 9).nodes 0 (nextBits (atRest [0] 5 0 7) 1) = some 9 ∧ brUnread (atRest [0] 5 0 7) = 1 ∧
      treePath (loneTree 9).nodes 0 (nextBits (atRest [1] 5 0 0) 0) = some 0 ∧
      childOf (loneTree 9).nodes 0 (brBit (atRest [1] 5 0 0) (brPos (atRest [1] 5 0 0) + 0)) = none ∧
      brUnread (atRest [] 5 0 0) = 0 ∧ userSlot (atRest [] 5 0 0) 5 = some Tree.absent ∧ (atRest [] 4 0 0).arg0.toNat = 4 :=
  ⟨atRest_ready _ _ _ _, rfl, rfl, rfl, by decide, by decide, by decide, by decide, by decide, rfl, by decide⟩

/-- StreamCommandsStartTheirCall: a sequence of 6 bytes and of 5. -/
theorem witness_streams :
    (atRest [0, 0, 0, 0, 0, 0] 0 0 0).Ready ∧ inLength (atRest [0, 0, 0, 0, 0, 0] 0 0 0) = 6 ∧
      inLength (atRest [0, 0, 0, 0, 0] 0 0 0) < 6 := ⟨atRest_ready _ _ _ _, by decide, by decide⟩

/-- StoredBlockCopiesItsBytes: all the bytes left, one more than are left, a wrong complement; a block that is not
final. -/
theorem witness_stored :
    Memory.wf (atRest [1, 2] 0 0 3).win = true ∧ (atRest [1, 2] 0 0 3).inf.wpos < 32768 ∧
      (atRest [1, 2] 0 0 3).br.len - (brPos (atRest [1, 2] 0 0 3) + 7) / 8 = (1#16 : Half).toNat ∧
      (atRest [1, 2] 0 0 3).br.len - (brPos (atRest [1, 2] 0 0 3) + 7) / 8 < (2#16 : Half).toNat ∧
      (0xFFFE#16 : Half) = ~~~1#16 ∧ (0xFFFF#16 : Half) ≠ ~~~1#16 ∧ (atRest [1, 2] 0 0 3).inf.bfinal = false := by decide

/-- DynamicHeaderBuildsTheLengthCode: four lengths in the last 12 bits, and one bit short. -/
theorem witness_dynamic :
    brUnread (atRest [0, 0] 0 0 4) = 3 * ((0#4 : BitVec 4).toNat + 4) ∧ brUnread (atRest [0, 0] 0 0 5) < 3 * ((0#4 : BitVec 4).toNat + 4) ∧
      (List.replicate 19 0).length = 19 ∧
      (∀ i, i < 19 → (List.replicate 19 0).getD (clenOrder.getD i 0) 0 =
        if i < 4 then bitsLsb (atRest [0, 0] 0 0 4) (brPos (atRest [0, 0] 0 0 4) + 3 * i) 3 else 0) ∧
      admitted (List.replicate 19 0) 7 = true ∧ admitted (List.replicate 19 1) 7 = false := by decide

/-- A code-length loop one length before its end, in a sequence of two and one. -/
def lengthsState : State :=
  { inCall .inflate .clen (atRest [] 0 0 0) with inf := { Inf.init with hlit := 2, hdist := 1, lens := [1, 1] } }

/-- CodeLengthSymbolsExtendTheSequence, BadRunsFailInvalidTable: a run that just fits, one that does not, extra bits
that are not there. -/
theorem witness_lengths :
    CodeLengthRun lengthsState (.clLen 1#4) 1 1 0 ∧ lengthsState.inf.lens.length + 1 = lengthsState.inf.hlit + lengthsState.inf.hdist ∧
      admitted [1, 1] 15 = true ∧ admitted [1] 15 = true ∧ admitted [1, 1, 1] 15 = false ∧
      CodeLengthRun lengthsState .clRep 1 (3 + bitsLsb lengthsState (brPos lengthsState) 2) 2 ∧ brUnread lengthsState < 2 ∧
      CodeLengthRun { lengthsState with br := (atRest [0] 0 0 0).br } .clZero3 0
        (3 + bitsLsb { lengthsState with br := (atRest [0] 0 0 0).br } 0 3) 3 ∧ State.reset.inf.lens = [] :=
  ⟨.inl ⟨_, rfl, rfl, rfl, rfl⟩, rfl, by decide, by decide, by decide, .inr (.inl ⟨rfl, rfl, rfl, rfl⟩), by decide,
    .inr (.inr (.inl ⟨rfl, rfl, rfl, rfl⟩)), rfl⟩

/-- LiteralIsEmitted, and the window at its last cell. -/
theorem witness_literal :
    Memory.wf State.reset.win = true ∧ ({ Inf.init with wpos := 32767 } : Inf).wpos < 32768 := by decide

/-- LengthCodesLatchTheMatchLength: the first and the last code, extra bits just there and one short. -/
theorem witness_length_codes :
    lengthInstrs[0]? = some .len257 ∧ lengthInstrs[28]? = some .len285 ∧ lengthInstrs[27]? = some .len284 ∧
      lengthExtra.getD 27 0 = brUnread (atRest [0] 0 0 3) ∧ brUnread (atRest [0] 0 0 4) < lengthExtra.getD 27 0 := by decide

/-- DistanceCodesCopyTheMatch: the first and the last code; a distance of just what was produced, and one more; extra
bits just there and one short. -/
theorem witness_distance_codes :
    distInstrs[0]? = some .dist0 ∧ distInstrs[29]? = some .dist29 ∧ distBase.getD 0 0 + bitsLsb copyState (brPos copyState) 0 = copyState.inf.produced ∧
      copyState.inf.produced < distBase.getD 1 0 + bitsLsb copyState (brPos copyState) 0 ∧
      distExtra.getD 29 0 = brUnread (atRest [0, 0] 0 0 3) ∧ brUnread (atRest [0, 0] 0 0 4) < distExtra.getD 29 0 := by decide

/-- EndOfBlockGoesOnOrEndsTheCall: each call, with the right sum (1 for no bytes) and with a wrong one; rows that are
there and rows that are missing. -/
theorem witness_eob :
    State.reset.inf.bfinal = false ∧ ({ Inf.init with bfinal := true } : Inf).bfinal = true ∧
      (adlerSums [] 1 0).2 * 65536 + (adlerSums [] 1 0).1 = (1#32 : Word).toNat ∧
      ¬ (adlerSums [] 1 0).2 * 65536 + (adlerSums [] 1 0).1 = (2#32 : Word).toNat ∧
      (inCall .zlib .litlenCode State.reset).running = some .zlib ∧ (inCall .png .litlenCode State.reset).running = some .png ∧
      (inCall .inflate .litlenCode State.reset).running = some .inflate ∧ pngNeed Png.init ≤ 0 ∧
      0 < pngNeed { Png.init with width := 1#32, height := 1#32, bitDepth := 8#8 } := by decide

/-- FixedCodesAreTakenWhole: the last bits of each length, and too few. -/
theorem witness_fixed :
    ({ inCall .inflate .litlenCode (atRest [0, 0] 0 0 9) with inf := { Inf.init with btype := 1#2 } } : State).inf.btype = 1#2 ∧
      brUnread (atRest [0, 0] 0 0 9) = 7 ∧ brUnread (atRest [0, 0] 0 0 10) < 7 ∧
      (brUnread (atRest [0xFF] 0 0 1) < 8 ∧ 0x17 < bitsMsb (atRest [0xFF] 0 0 1) (brPos (atRest [0xFF] 0 0 1)) 7) ∧
      (brUnread (atRest [0xFF, 0xFF] 0 0 8) < 9 ∧ 0xC7 < bitsMsb (atRest [0xFF, 0xFF] 0 0 8) (brPos (atRest [0xFF, 0xFF] 0 0 8)) 8) ∧ brUnread (atRest [0] 0 0 3) = 5 ∧
      brUnread (atRest [0] 0 0 4) < 5 := by decide

/-- ZlibHeaderIsCheckedInOrder: a header for each clause (V-ZLB-1, V-ZLB-5 to V-ZLB-7). -/
theorem witness_zlib :
    (0x79 : Nat) % 16 ≠ 8 ∧ (0x78 : Nat) % 16 = 8 ∧ (0x78 * 256 + 0x9D) % 31 ≠ 0 ∧ (0x78 * 256 + 0xBB) % 31 = 0 ∧
      (0xBB#8 : Byte).getLsbD 5 = true ∧ (0x78 * 256 + 0x9C) % 31 = 0 ∧ (0x9C#8 : Byte).getLsbD 5 = false ∧
      inLength (atRest [0, 0, 0, 0, 0] 0 0 0) < 6 := by decide

/-- PngChunksActAsTheirRulesSay: payload lengths at the ends of each range, and `IDAT` of 6 and of 5 bytes. -/
theorem witness_chunks :
    Png.init.seenIhdr = false ∧ ({ Png.init with seenIhdr := true, chunkLength := 768 } : Png).chunkLength % 3 = 0 ∧
      ({ Png.init with chunkLength := 13 } : Png).chunkLength = 13 ∧ ({ Png.init with chunkLength := 14 } : Png).chunkLength ≠ 13 ∧
      (3 : Nat) ≠ 0 ∧ (3 : Nat) % 3 = 0 ∧ (768 : Nat) ≤ 768 ∧ (768 : Nat) < 771 ∧ (4 : Nat) % 3 ≠ 0 ∧
      6 ≤ (List.replicate 6 0#8).length ∧ (List.replicate 5 0#8).length < 6 := by decide

/-- PngHeaderIsLatchedAndChecked: sizes 1 and 0; an accepted header and one of each other kind. -/
theorem witness_png_header :
    (1#32 : Word) ≠ 0#32 ∧ (0#32 : Word) = 0#32 ∧ (Instr.ctIndexed, 3, [1, 2, 4, 8]) ∈ colorRows ∧
      (inCall .png .pngCheck State.reset).point ≠ .pngConvert ∧
      (8#8 : Byte).toNat ∈ [1, 2, 4, 8] ∧ Png.init.interlace = 0#8 ∧ Png.init.compression = 0#8 ∧ Png.init.filterMethod = 0#8 ∧
      ¬ (16#8 : Byte).toNat ∈ [1, 2, 4, 8] := by decide

/-- PngFiltersReconstructARow, FilteringUndoesReconstruction: a header of each colour type's samples, a row that ends where
`RAW` ends, the smallest `bpp`. -/
theorem witness_rows :
    (({ Png.init with colorType := 6#8 } : Png).colorType.toNat, 4) ∈ [(0, 1), (2, 3), (3, 1), (4, 2), (6, 4)] ∧
    (rowState [1, 2, 3, 4, 5, 6] []).png.row * (1 + pngRowBytes (rowState [1, 2, 3, 4, 5, 6] []).png) + 1 +
        pngRowBytes (rowState [1, 2, 3, 4, 5, 6] []).png = (rowState [1, 2, 3, 4, 5, 6] []).raw.length ∧
      1 ≤ pngBpp { Png.init with bitDepth := 1#8 } := by decide

theorem witness_filter_rows : (Instr.filterPaeth, paeth) ∈ filterRows := by simp [filterRows]

/-- PaethPicksTheNearest: a tie of `a` and `b`, `b` nearest, `c` nearest (95_test_vectors.md). -/
theorem witness_paeth : paeth 3#8 3#8 3#8 = 3#8 ∧ paeth 50#8 60#8 40#8 = 60#8 ∧ paeth 100#8 50#8 75#8 = 75#8 := by decide

/-- PngPixelsAreConverted (its first clause has no hypothesis but the four depths): indexes inside the palette up to its last entry, and one outside. -/
theorem witness_pixels :
    (inCall .png .pngConvert State.reset).point = .pngConvert ∧
      (∀ row ∈ [[0x40#8]], ∀ i, i < 1 → rowSample 2 row i < [Rgb.mk 0#8 0#8 0#8, Rgb.mk 1#8 1#8 1#8].length) ∧
      (∃ row ∈ [[0x80#8]], ∃ i, i < 1 ∧ [Rgb.mk 0#8 0#8 0#8, Rgb.mk 1#8 1#8 1#8].length ≤ rowSample 2 row i) :=
  ⟨rfl, by decide, ⟨_, List.mem_singleton.mpr rfl, 0, by decide, by decide⟩⟩

/-- JpegUnitCommandsSetUpABlock: the first and the last slot, admitted counts and others, a cursor at the end and one
past it, the largest and a too large operand. -/
theorem witness_jpeg_units :
    (atRest (List.replicate 16 0) 8 0 0).Ready ∧ jadmitted (List.replicate 16 0) = true ∧
      jadmitted ([3] ++ List.replicate 15 0) = false ∧ inLength (atRest (List.replicate 16 0) 15 0 0) = 16 + 0 ∧
      (atRest [] 7 0 0).arg0.toNat < 8 ∧ 15 < (atRest [] 16 0 0).arg0.toNat ∧ inLength (atRest [1] 1 0 0) = (atRest [1] 1 0 0).arg0.toNat ∧
      inLength (atRest [1] 2 0 0) < (atRest [1] 2 0 0).arg0.toNat ∧
      dcValid { State.reset with jdc := List.replicate 4 (loneTree 0) } 3 = true ∧
      acValid { State.reset with jac := List.replicate 4 (loneTree 0) } 3 = true ∧ dcValid State.reset 3 = false ∧
      (atRest [] 2 0x33 0).arg1.toNat / 16 % 16 = 3 ∧ 2 < (atRest [] 3 0 0).arg0.toNat ∧ 3 < (atRest [] 0 0x04 0).arg1.toNat % 16 :=
  ⟨atRest_ready _ _ _ _, by decide, by decide, by decide, by decide, by decide, by decide, by decide, by decide, by decide,
    by decide, by decide, by decide, by decide⟩

/-- JpegBitsAreDeliveredInOrder: the bits of R304's examples, a stuffed byte, a marker; a symbol on one bit, a missing
child, the end of the bits, a slot without a tree. -/
theorem witness_entropy :
    entropyBytes [0xFF#8, 0x00#8, 0x40#8] = [0xFF#8, 0x40#8] ∧ entropyBytes [0x55#8, 0xFF#8, 0xD9#8] = [0x55#8] ∧
      bitsNumber ((entropyBits (atRest [0x55, 0x73] 0 0 0) { pos := 0, acc := 0#8, cnt := 0 }).take 12) = 0x557 ∧
      (entropyBits (atRest [0x55] 0 0 0) { pos := 0, acc := 0#8, cnt := 0 }).length < 9 ∧
      (entropyBits (atRest [0x55] 0 0 0) { pos := 1, acc := 0x55#8, cnt := 2 }) = [false, true] ∧
      treeCode (loneTree 5).nodes 0 ((entropyBits (atRest [0] 0 0 0) { pos := 0, acc := 0#8, cnt := 0 }).take 1) = some 5 ∧
      treePath (loneTree 5).nodes 0 ((entropyBits (atRest [0x80] 0 0 0) { pos := 0, acc := 0#8, cnt := 0 }).take 0) = some 0 ∧
      (entropyBits (atRest [0x80] 0 0 0) { pos := 0, acc := 0#8, cnt := 0 })[0]? = some true ∧ childOf (loneTree 5).nodes 0 true = none ∧
      (loneTree 5).valid = true ∧ (State.reset.jdc.getD State.reset.jc.td .absent).valid = false := by
  decide +kernel

/-- BlockSymbolsFillTheBlock: magnitudes that are there and are not, the place 63 and the place 64, a run of 16 to 63 and
to 64. -/
theorem witness_block_symbols :
    (jbrReceive (atRest [0] 0 0 0) 1 0 State.reset.jbr).isSome = true ∧ (jbrReceive (atRest [] 0 0 0) 1 0 State.reset.jbr).isNone = true ∧
      (jbrReceive (atRest [] 0 0 0) 0 0 State.reset.jbr).isSome = true ∧ (49 + (0xE1#8 : Byte).toNat / 16 = 63) ∧
      63 < 49 + (0xF1#8 : Byte).toNat / 16 ∧ 47 + 16 ≤ 63 ∧ 63 < 48 + 16 ∧
      (inCall (.block 2) .jpegAc State.reset).running = some (.block 2) := by decide

/-- ScanBlockReachesItsPlane: one block of one component, its table all ones; a frame of three components; the last block of
the scan, and a restart that is due. -/
theorem witness_scan_block :
    let s : State := { scanState [] with qt := List.replicate 4 (List.replicate 64 1) }
    s.running = some (.jpeg none) ∧ s.plane.length = 3 ∧ s.jc.c < 3 ∧ (∀ m ∈ s.plane, Memory.wf m = true) ∧
      blockX s + 8 = planeWidth s.jdec s.jc.c ∧ s.jdec.ncomp = 1 ∧ ({ s.jdec with ncomp := 3 } : Jdec).ncomp = 3 ∧
      ¬ s.jc.mx + 1 < mcusAcross s.jdec ∧ ¬ s.jc.my + 1 < mcusDown s.jdec ∧
      (let d := { s.jdec with width := 16, restartInterval := 1, mcuLeft := 0 };
        s.jc.mx + 1 < mcusAcross d ∧ d.restartInterval ≠ 0 ∧ d.mcuLeft = 0) ∧ quantDefined s (frameComp s.jdec s.jc.c).tq = true ∧
      ∀ k, k < 64 → quantEntry s (frameComp s.jdec s.jc.c).tq k ≠ 0 := by
  refine ⟨rfl, rfl, by decide, by decide, by decide +kernel, rfl, rfl, by decide +kernel, by decide +kernel, by decide +kernel, rfl,
    by decide +kernel⟩

/-- ExtendCoversItsCategory: category 1, both magnitudes, and the ends of category 2. -/
theorem witness_extend :
    (0 : Nat) < 2 ^ 1 ∧ (0 : Nat).testBit 0 = false ∧ (1 : Nat).testBit 0 = true ∧ ((2 : Int) ^ (2 - 1) ≤ 3 ∧ (3 : Int) ≤ 2 ^ 2 - 1) ∧
      (-((2 : Int) ^ 2 - 1) ≤ -3 ∧ (-3 : Int) ≤ -(2 : Int) ^ (2 - 1)) := by decide

/-- QuantizationTablesLoadAndApply: table 3 with 64 one-byte and with 64 two-byte entries, a zero among them, and what is
refused. -/
theorem witness_quant :
    (atRest (List.replicate 64 1) 3 0 0).Ready ∧ (atRest (List.replicate 64 1) 3 0 0).Legal ∧
      inLength (atRest (List.replicate 64 1) 3 0 0) = 64 ∧
      (∀ k, k < 64 → (List.replicate 64 1).getD k 0 = (inByte (atRest (List.replicate 64 1) 3 0 0) k).toNat) ∧
      0 ∉ List.replicate 64 1 ∧ 0 ∈ List.replicate 64 0 ∧ (atRest [] 0x13 0 0).arg0.getLsbD 4 = true ∧
      (atRest [] 0x13 0 0).arg0.toNat < 32 ∧ 3 < (atRest [] 4 0 0).arg0.toNat % 16 ∧ 32 ≤ (atRest [] 0x23 0 0).arg0.toNat ∧
      ({ State.reset with qtDef := [false, false, false, true] } : State).qtDef.getD 3 false = true ∧
      (∀ k, k < 64 → quantEntry { State.reset with qt := List.replicate 4 (List.replicate 64 1) } 3 k ≠ 0) ∧
      State.reset.qtDef.getD 3 false = false := by
  refine ⟨atRest_ready _ _ _ _, ⟨by decide, by decide, by decide, by decide, by decide⟩, by decide, by decide +kernel, by decide, by decide, by decide, by decide, by decide, by decide, by decide,
    by decide +kernel, by decide⟩

/-- InverseTransformIsTheDoubleSum, DcOnlyBlocksAreUniform, ColorCommandsConvertOnePixel. -/
theorem witness_transform :
    State.reset.Ready ∧ State.reset.dq = List.replicate 64 0 ∧
      ({ State.reset with dq := 32767 :: List.replicate 63 0 } : State).dq = 32767 :: List.replicate 63 0 ∧
      (((atRest [] 0x808005 0 0).arg0.toNat / 2 ^ 8 % 256 : Nat) : Int) - 128 = 0 ∧
      (((atRest [] 0x808005 0 0).arg0.toNat / 2 ^ 16 % 256 : Nat) : Int) - 128 = 0 :=
  ⟨reset_ready, rfl, rfl, by decide, by decide⟩

/-- JpegMarkersActAsTheirRulesSay: an empty segment, a restart interval, and its length missed by one; a restart that is
due and one that is not; a segment of each failure, and a restart without its bytes. -/
theorem witness_markers :
    State.reset.jdec.seenSoi = false ∧ ({ Jdec.init with seenSoi := true, seenSos := true } : Jdec).seenSos = true ∧
      State.SegmentIs (atRest [0, 2] 0 0 0) [] ∧ State.SegmentIs (atRest [0, 4, 1, 2] 0 0 0) [1#8, 2#8] ∧
      State.SegmentIs (atRest [0, 3, 1] 0 0 0) [1#8] ∧ [1#8].length ≠ 2 ∧ (7#3 : BitVec 3).toNat = ({ Jdec.init with rstNext := 7 } : Jdec).rstNext ∧
      (1#3 : BitVec 3).toNat ≠ Jdec.init.rstNext ∧ inLength (atRest [0] 0 0 0) < Jdec.init.pos + 2 ∧
      (Jdec.init.pos + 2 ≤ inLength (atRest [0, 1] 0 0 0) ∧
        (inByte (atRest [0, 1] 0 0 0) 0).toNat * 256 + (inByte (atRest [0, 1] 0 0 0) 1).toNat < 2) ∧
      inLength (atRest [0, 3] 0 0 0) < Jdec.init.pos + ((inByte (atRest [0, 3] 0 0 0) 0).toNat * 256 + (inByte (atRest [0, 3] 0 0 0) 1).toNat) ∧
      inLength (atRest [0xFF] 0 0 0) < (atRest [0xFF] 0 0 0).jbr.pos + 2 ∧ inByte (atRest [1, 0xD0] 0 0 0) 0 ≠ 0xFF#8 :=
  ⟨rfl, rfl, ⟨by decide, by decide, by decide⟩, ⟨by decide, by decide, by decide⟩, ⟨by decide, by decide, by decide⟩, by decide,
    by decide, by decide, by decide, by decide, by decide, by decide, by decide⟩

/-- FrameHeaderIsParsedAndChecked: a header of one component, its parts, a header for each check, a payload of 5 bytes. -/
theorem witness_frame :
    State.SegmentIs (atRest [0, 7, 8, 0, 1, 0, 1] 0 0 0) [8#8, 0#8, 1#8, 0#8, 1#8] ∧
    State.SegmentIs (atRest [0, 11, 8, 0, 1, 0, 1, 1, 9, 0x44, 3] 0 0 0)
        (8#8 :: 0#8 :: 1#8 :: 0#8 :: 1#8 :: 1#8 :: [9#8, 0x44#8, 3#8]) ∧
      [9#8, 0x44#8, 3#8].length = 3 * (1#8 : Byte).toNat ∧
      (∀ i, i < 1 → [FrameComp.mk 9#8 4 4 3][i]? = some {
        id := [9#8, 0x44#8, 3#8].getD (3 * i) 0#8, h := ([9#8, 0x44#8, 3#8].getD (3 * i + 1) 0#8).toNat / 16,
        v := ([9#8, 0x44#8, 3#8].getD (3 * i + 1) 0#8).toNat % 16, tq := ([9#8, 0x44#8, 3#8].getD (3 * i + 2) 0#8).toNat }) ∧
      (∀ c ∈ [FrameComp.mk 9#8 4 4 3], c.h ≠ 0 ∧ c.h ≤ 4 ∧ c.v ≠ 0 ∧ c.v ≤ 4 ∧ c.tq ≤ 3) ∧
      (∃ c ∈ [FrameComp.mk 9#8 5 4 3], c.h = 0 ∨ 4 < c.h ∨ c.v = 0 ∨ 4 < c.v ∨ 3 < c.tq) ∧
      ([FrameComp.mk 9#8 4 4 3].map (·.id)).Nodup ∧ ¬ ([FrameComp.mk 9#8 4 4 3, FrameComp.mk 9#8 1 1 0].map (·.id)).Nodup ∧
      ¬ (∀ c ∈ [FrameComp.mk 1#8 3 1 0, FrameComp.mk 2#8 2 1 0, FrameComp.mk 3#8 1 1 0],
        c.h ∣ ([FrameComp.mk 1#8 3 1 0, FrameComp.mk 2#8 2 1 0, FrameComp.mk 3#8 1 1 0].map (·.h)).foldl max 0) ∧
      State.SegmentIs (atRest [0, 8, 12, 0, 0, 0, 0, 2] 0 0 0) (12#8 :: 0#8 :: 0#8 :: 0#8 :: 0#8 :: 2#8 :: []) ∧
      ([] : List Byte).length ≠ 3 * (2#8 : Byte).toNat ∧ ([] : List Byte).length = 3 * (0#8 : Byte).toNat := by
  refine ⟨⟨by decide, by decide, by decide⟩, ⟨by decide, by decide, by decide⟩, by decide, by decide, by decide, by decide,
    by decide, by decide, by decide, ⟨by decide, by decide, by decide⟩, by decide, by decide⟩

/-- TableSegmentsLoadEveryTable: a payload without tables, one of each kind of table, a zero entry of two bytes, counts that
are not admitted, and a bad header of each segment. -/
theorem witness_tables :
    State.SegmentIs (atRest [0, 2] 0 0 0) ([] : List Byte) ∧ QuantTableOk 3 true (List.replicate 64 65535) ∧
      QuantTableOk 0 false (List.replicate 64 255) ∧ 0 ∈ List.replicate 64 0 ∧ (∀ q ∈ List.replicate 64 0, q < 65536) ∧
      State.SegmentIs (atRest ([0, 131, 0x13] ++ List.replicate 128 0) 0 0 0) ([] ++ quantTableBytes 3 true (List.replicate 64 0) ++ []) ∧
      State.SegmentIs (atRest [0, 3, 0x20] 0 0 0) ([] ++ 0x20#8 :: []) ∧ 1 < (0x20#8 : Byte).toNat / 16 ∧ 3 < (0x04#8 : Byte).toNat % 16 ∧
      HuffTableOk 3 acCounts [0x00, 0x01, 0xF0, 0x11, 0x23] ∧ jadmitted ([3] ++ List.replicate 15 0) = false ∧
      State.SegmentIs (atRest ([0, 22, 0] ++ [3] ++ List.replicate 15 0 ++ [1, 2, 3]) 0 0 0)
        ([] ++ huffTableBytes false 0 ([3] ++ List.replicate 15 0) [1, 2, 3] ++ []) :=
  ⟨⟨by decide, by decide, by decide⟩, ⟨by decide, by decide, by decide⟩, ⟨by decide, by decide, by decide⟩, by decide, by decide,
    ⟨by decide +kernel, by decide +kernel, by decide +kernel⟩, ⟨by decide, by decide, by decide⟩, by decide, by decide,
    ⟨by decide, by decide, by decide, by decide, by decide, by decide, by decide⟩, by decide,
    ⟨by decide +kernel, by decide +kernel, by decide +kernel⟩⟩

/-- ScanHeaderStartsTheScan: an empty payload; a header that matches its frame and tables, with the tests each clause asks
for. -/
theorem witness_scan :
    State.SegmentIs (atRest [0, 2] 0 0 0) ([] : List Byte) ∧
    State.SegmentIs (scanState [0, 8, 1, 1, 0x00, 0, 63, 0]) (1#8 :: [1#8, 0x00#8, 0#8, 63#8, 0#8]) ∧
      (scanState []).jdec.seenSof = true ∧ (scanState []).jdec.seenSos = false ∧ Jdec.init.seenSof = false ∧
      [1#8, 0x00#8, 0#8, 63#8, 0#8].length = 3 + 2 * (1#8 : Byte).toNat ∧ (1#8 : Byte).toNat = (scanState []).jdec.ncomp ∧
      (∀ j, j < 1 → [ScanComp.mk 1#8 0 0][j]? = some {
        cs := [1#8, 0x00#8, 0#8, 63#8, 0#8].getD (2 * j) 0#8, td := ([1#8, 0x00#8, 0#8, 63#8, 0#8].getD (2 * j + 1) 0#8).toNat / 16,
        ta := ([1#8, 0x00#8, 0#8, 63#8, 0#8].getD (2 * j + 1) 0#8).toNat % 16 }) ∧
      (scanComp { (scanState []).jdec with scanComps := [ScanComp.mk 1#8 0 0] } 0).cs = (frameComp (scanState []).jdec 0).id ∧
      quantDefined (scanState []) 0 = true ∧ dcValid (scanState []) 0 = true ∧ acValid (scanState []) 0 = true ∧
      dcValid (scanState []) 1 = false := by
  refine ⟨⟨by decide, by decide, by decide⟩, ⟨by decide, by decide, by decide⟩, rfl, rfl, rfl, by decide, by decide, by decide,
    by decide, rfl, rfl, rfl, rfl⟩

end Sys2Proof.Tests
end

/-! SUPPORT. The register files (10_state.md R51, R53): what each write of them owes to keep `State.Sized`. -/

namespace Sys2Proof.Machine

/-- A quantization table of the right size, its entries 16 bits wide (R51). -/
def QuantFits (q : List Nat) : Prop := q.length = 64 ∧ ∀ v ∈ q, v < 65536

/-- A block of 64 signed 16-bit values (R53). -/
def DequantFits (d : List Int) : Prop := d.length = 64 ∧ ∀ v ∈ d, -32768 ≤ v ∧ v ≤ 32767

/-- The values a buffer takes (R51, R53), as statements say them. -/
theorem bufferFits_dq (v : Int) : bufferFits .dq v = true ↔ -32768 ≤ v ∧ v ≤ 32767 := by simp [bufferFits]

theorem bufferFits_qt (v : Int) : bufferFits .qt v = true ↔ 0 ≤ v ∧ v ≤ 65535 := by simp [bufferFits]

theorem bufferFits_qtDef (v : Int) : bufferFits .qtDef v = true ↔ v = 0 ∨ v = 1 := by simp [bufferFits]

theorem bufferFits_qtPrec (v : Int) : bufferFits .qtPrec v = true ↔ v = 0 ∨ v = 1 := by simp [bufferFits]

/-- An element that is there. -/
theorem getD_of_lt {α : Type} {l : List α} {i : Nat} (h : i < l.length) (d : α) : l.getD i d = l[i] := by
  rw [List.getD_eq_getElem?_getD, List.getElem?_eq_getElem h, Option.getD_some]

theorem draw64_length {α : Type} (f : Nat → α) : (draw64 f).length = 64 := by simp [draw64]

theorem quantFits_draw (f : Nat → Half) : QuantFits (draw64 fun k => (f k).toNat) := by
  refine ⟨draw64_length _, fun v hv => ?_⟩
  obtain ⟨k, _, rfl⟩ := List.mem_map.1 hv
  exact (f k).isLt

theorem dequantFits_draw (f : Nat → Half) : DequantFits (draw64 fun k => (f k).toInt) := by
  refine ⟨draw64_length _, fun v hv => ?_⟩
  obtain ⟨k, _, rfl⟩ := List.mem_map.1 hv
  have hlo := BitVec.le_toInt (f k)
  have hhi := BitVec.toInt_lt (x := f k)
  omega

/-- The entries a load reads (R330): 64 of them, from bytes or pairs of bytes. -/
theorem quantFits_quantEntries {wide : Bool} {bytes : List Byte} (h : bytes.length = if wide then 128 else 64) :
    QuantFits (quantEntries wide bytes) := by
  cases wide with
  | false =>
    rw [quantEntries]
    refine ⟨by simpa using h, fun v hv => ?_⟩
    obtain ⟨b, _, rfl⟩ := List.mem_map.1 hv
    have := b.isLt
    omega
  | true =>
    obtain ⟨hlen, hget⟩ := quantEntries_wide 64 bytes h
    refine ⟨hlen, fun v hv => ?_⟩
    obtain ⟨k, hk, rfl⟩ := List.getElem_of_mem hv
    have hv := hget k (by omega)
    rw [getD_of_lt hk] at hv
    have hhi := (bytes.getD (2 * k) 0#8).isLt
    have hlo := (bytes.getD (2 * k + 1) 0#8).isLt
    omega

/-- A dequantized block is clamped to 16 bits (R331). -/
theorem dequantFits_dequantValue (s : State) (t : Nat) : DequantFits ((List.range 64).map (dequantValue s t)) := by
  refine ⟨by simp, fun v hv => ?_⟩
  obtain ⟨k, _, rfl⟩ := List.mem_map.1 hv
  unfold dequantValue clamp
  split
  · omega
  · split <;> omega

theorem idct_length (dq : List Int) : (idct dq).length = 64 := by simp [idct, idctColumns]

/-- `State.Sized` with its parts named: the register files and what their entries may be (R51, R53). -/
structure State.FilesFit (s : State) : Prop where
  qt : s.qt.length = 4
  tables : ∀ t ∈ s.qt, QuantFits t
  qtPrec : s.qtPrec.length = 4
  qtDef : s.qtDef.length = 4
  coef : s.coef.length = 64
  dq : DequantFits s.dq
  samp : s.samp.length = 64
  pred : s.pred.length = 3
  plane : s.plane.length = 3
  jdc : s.jdc.length = 4
  jac : s.jac.length = 4

theorem State.Sized.files {s : State} (h : s.Sized) : s.FilesFit := by
  obtain ⟨qt, tables, qtPrec, qtDef, coef, dqLength, dq, samp, pred, plane, jdc, jac⟩ := h
  exact ⟨qt, tables, qtPrec, qtDef, coef, ⟨dqLength, dq⟩, samp, pred, plane, jdc, jac⟩

theorem State.FilesFit.sized {s : State} (h : s.FilesFit) : s.Sized :=
  ⟨h.qt, h.tables, h.qtPrec, h.qtDef, h.coef, h.dq.1, h.dq.2, h.samp, h.pred, h.plane, h.jdc, h.jac⟩

/-- One quantization table written (R330). -/
theorem State.FilesFit.set_table {s : State} (h : s.FilesFit) (t : Nat) {e : List Nat} (he : QuantFits e) :
    ∀ q ∈ s.qt.set t e, QuantFits q := fun q hq => by
  rcases List.mem_or_eq_of_mem_set hq with hq | rfl
  · exact h.tables q hq
  · exact he

/-- A failed `INF_DECOMPRESS` or `ZLB_DECOMPRESS` leaves the register files alone (R405). -/
theorem forgetInflate_frame (n : Nat) (s : State) :
    ∃ b cl ll d hu i z w, forgetInflate n s =
      { s with br := b, tCl := cl, tLl := ll, tD := d, huf := hu, inf := i, zlb := z, win := w } :=
  ⟨_, _, _, _, _, _, _, _, rfl⟩

theorem filesFit_forgetInflate {s : State} (h : s.FilesFit) (n : Nat) : (forgetInflate n s).FilesFit := by
  obtain ⟨b, cl, ll, d, hu, i, z, w, e⟩ := forgetInflate_frame n s
  rw [e]
  exact { h with }

/-- What a failure draws fits the register files (R405). -/
theorem filesFit_forgetCall {s : State} (h : s.FilesFit) (n : Nat) (c : Call) : (forgetCall n c s).FilesFit := by
  cases c with
  | plain => exact h
  | reader => exact { h with }
  | block c => exact { h with coef := draw64_length _, pred := List.length_set.trans h.pred }
  | quantLoad t => exact { h with qt := List.length_set.trans h.qt, tables := h.set_table t (quantFits_draw _) }
  | dequant => exact { h with dq := dequantFits_draw _ }
  | inflate | zlib => exact filesFit_forgetInflate h n
  | png => exact { filesFit_forgetInflate h n with }
  | jpeg bad =>
    refine ⟨rfl, fun q hq => ?_, rfl, rfl, draw64_length _, dequantFits_draw _, draw64_length _, rfl, rfl, rfl, rfl⟩
    obtain ⟨t, _, rfl⟩ := List.mem_map.1 hq
    exact quantFits_draw _

end Sys2Proof.Machine

/-! SUPPORT. The three invariants of this family, carried through a step. A call starts, works and then goes on, ends well
or fails (10_state.md R22; 60_exceptions.md R403; 70_reset_and_hazards.md R442): `State.Keeps` is what a state owes a
command, `State.Runs` what it owes while the call works, `State.Settles` what the step leaves. -/

namespace Sys2Proof.Machine

/-- A call runs, as `STATUS` shows it; where it stands is not said (R22). -/
def State.Busy (s : State) : Prop := s.status = statusBusy ∧ s.errkind = 0#8 ∧ s.running ≠ none

/-- `u` holds the read-only tables and the register files as well as `s` does. -/
structure State.Keeps (s u : State) : Prop where
  constants : s.Constants → u.Constants
  sized : s.Sized → u.Sized

/-- `u` lies inside a call that a step from `s` is working on. -/
structure State.Runs (s u : State) : Prop extends s.Keeps u where
  busy : s.Legal → u.Busy

/-- `t` may be the end of a step from `s`. -/
structure State.Settles (s t : State) : Prop extends s.Keeps t where
  legal : s.Legal → t.Legal

variable {s u v : State}

theorem State.Legal.busy (h : u.Legal) (hp : u.point ≠ .idle) : u.Busy := by
  obtain ⟨-, -, hbusy, hrunning, herr⟩ := h
  have hb := hbusy.2 hp
  exact ⟨hb, herr (by rw [hb]; decide), fun hn => hp (hrunning.1 hn)⟩

theorem State.Busy.legal (h : u.Busy) (hp : u.point ≠ .idle) : u.Legal := by
  obtain ⟨hb, he, hr⟩ := h
  refine ⟨by rw [hb]; decide, by rw [he]; decide, by simp [hb, hp], by simp [hr, hp], fun _ => he⟩

theorem FailKind.code_toNat_le (k : FailKind) : k.code.toNat ≤ 6 := by cases k <;> decide

/-- A call that has ended, well or FAILED, leaves legal registers (R403). -/
theorem State.legal_of_ended (hp : u.point = .idle) (hr : u.running = none)
    (hs : u.status = statusOk ∧ u.errkind = 0#8 ∨ u.status = statusFailed ∧ u.errkind.toNat ≤ 6) : u.Legal := by
  have hnb : statusOk ≠ statusBusy ∧ statusFailed ≠ statusBusy := by decide
  rcases hs with ⟨hst, herr⟩ | ⟨hst, herr⟩
  · exact ⟨by rw [hst]; decide, by rw [herr]; decide, by simp [hst, hp, hnb.1], by simp [hr, hp], fun _ => herr⟩
  · exact ⟨by rw [hst]; decide, herr, by simp [hst, hp, hnb.2], by simp [hr, hp], fun h => absurd hst h⟩

theorem endOk_legal (u : State) : (endOk u).Legal := State.legal_of_ended rfl rfl (.inl ⟨rfl, rfl⟩)

theorem failCall_legal (k : FailKind) (u : State) : (failCall k u).Legal :=
  State.legal_of_ended rfl rfl (.inr ⟨rfl, k.code_toNat_le⟩)

/-- A failure leaves the read-only tables (R405). -/
theorem constants_failCall (h : u.Constants) (k : FailKind) : (failCall k u).Constants := by
  simpa [State.Constants] using h

theorem State.Keeps.refl (s : State) : s.Keeps s := ⟨id, id⟩

/-- The start of a call (R442). -/
theorem State.Keeps.begun (h : s.Keeps u) (c : Call) : s.Runs (beginCall c u) :=
  ⟨⟨h.constants, h.sized⟩, fun _ => ⟨rfl, rfl, nofun⟩⟩

/-- What the register files owe after a write, said of their parts. -/
theorem sized_of_files (h : u.FilesFit → v.FilesFit) : u.Sized → v.Sized := fun hu => (h hu.files).sized

/-- Work inside a call. A write of other registers leaves the three invariants as they are: each is then `id`. -/
theorem State.Runs.update (h : s.Runs u) (hc : u.Constants → v.Constants) (hz : u.Sized → v.Sized)
    (hb : u.Busy → v.Busy) : s.Runs v :=
  ⟨⟨hc ∘ h.constants, hz ∘ h.sized⟩, hb ∘ h.busy⟩

/-- The call goes on: the step ends where something is fetched next. -/
theorem settles_goesOn (h : s.Runs u) (hc : u.Constants → v.Constants) (hz : u.Sized → v.Sized)
    (hb : u.Busy → v.Busy) (hp : v.point ≠ .idle) : s.Settles v :=
  ⟨⟨hc ∘ h.constants, hz ∘ h.sized⟩, fun hl => (hb (h.busy hl)).legal hp⟩

/-- The call ends well (R403). -/
theorem settles_ends (h : s.Runs u) (hc : u.Constants → v.Constants) (hz : u.Sized → v.Sized) : s.Settles (endOk v) :=
  ⟨⟨hc ∘ h.constants, hz ∘ h.sized⟩, fun _ => endOk_legal v⟩

/-- The call fails (R403, R405). -/
theorem settles_fails {k : FailKind} (h : s.Runs u) : s.Settles (failCall k u) where
  constants hc := constants_failCall (h.constants hc) k
  sized hz := sized_of_files (fun f => { filesFit_forgetCall f u.draws (u.running.getD .plain) with }) (h.sized hz)
  legal _ := failCall_legal k u

/-- Every next state of the outcome may be the end of a step from `s`. -/
def Settled (s : State) : Out → Prop
  | .next t => s.Settles t
  | .fault _ => True
  | .refused _ => True

/-- The operation leaves the call running, or fails inside it. -/
def Res.Within {α : Type} (s : State) : Res α → Prop
  | .ok _ u => s.Runs u
  | .fail _ u => s.Runs u

theorem settled_raise {k : FailKind} (h : s.Runs u) : Settled s (raise k u) := settles_fails h

theorem Settled.of_next {o : Out} {t : State} (h : Settled s o) (ho : o = .next t) : s.Settles t := by
  subst ho
  exact h

/-- A test whose two outcomes may both end the step. -/
theorem settled_ite {c : Prop} [Decidable c] {a b : Out} (ha : Settled s a) (hb : Settled s b) :
    Settled s (if c then a else b) := by
  split
  · exact ha
  · exact hb

theorem settled_whenIdle {k : Out} (h : Settled s k) : Settled s (whenIdle u k) := by
  unfold whenIdle
  split
  · exact h
  · trivial

theorem settled_whenBrLive {k : Out} (h : Settled s k) : Settled s (whenBrLive u k) := by
  unfold whenBrLive
  split
  · exact h
  · trivial

theorem settled_whenBitCount {k : Out} (h : Settled s k) : Settled s (whenBitCount u k) := by
  unfold whenBitCount
  split
  · exact h
  · trivial

theorem settled_unlessFail {checks : List (Bool × FailKind)} {k : Out} (hu : s.Runs u) (h : Settled s k) :
    Settled s (unlessFail checks u k) := by
  unfold unlessFail
  split
  · exact settled_raise hu
  · exact h

theorem Res.Within.run {α : Type} {x : Res α} {f : α → State → Out} (hx : x.Within s)
    (hf : ∀ a u, s.Runs u → Settled s (f a u)) : Settled s (x.run f) := by
  cases x with
  | ok a u => exact hf a u hx
  | fail k u => exact settled_raise hx

theorem Res.Within.bind {α β : Type} {x : Res α} {f : α → State → Res β} (hx : x.Within s)
    (hf : ∀ a u, x = .ok a u → s.Runs u → (f a u).Within s) : (x.bind f).Within s := by
  cases x with
  | ok a u => exact hf a u rfl hx
  | fail k u => exact hx

/-! The shared operations that read or load (40_bitreader.md; 41_huffman.md R170; 45_jpeg_entropy.md R305, R307;
46_jpeg_dequant_idct.md R330, R331; 48_jpeg_decoder.md R363). -/

theorem State.Runs.alignToByte (h : s.Runs u) : s.Runs (alignToByte u) := by
  rw [alignToByte_eq]
  exact h.update id id id

theorem readBits_within {n : Nat} (h : s.Runs u) : (readBits n u).Within s := by
  unfold readBits
  split
  · exact h
  · exact h.update id id id

theorem readBitsReversed_within {n : Nat} (h : s.Runs u) : (readBitsReversed n u).Within s := by
  unfold readBitsReversed
  split
  · exact h
  · exact h.update id id id

theorem readBytes_within {n : Nat} (h : s.Runs u) : (readBytes n u).Within s := by
  unfold readBytes
  dsimp only
  split
  · exact h.alignToByte
  · exact h.alignToByte.update id id id

theorem extraBits_within {n : Nat} (h : s.Runs u) : (extraBits n u).Within s := by
  unfold extraBits
  split
  · exact h
  · exact readBits_within h

theorem readClenFields_within {n : Nat} (h : s.Runs u) : (readClenFields n u).Within s := by
  induction n generalizing u with
  | zero => exact h
  | succ n ih =>
    exact (readBits_within h).bind fun _ v _ hv => (ih hv).bind fun _ w _ hw => hw

theorem decodeSymbol_within {t : Tree} (h : s.Runs u) : (decodeSymbol t u).Within s := by
  unfold decodeSymbol
  split
  · exact h.update id id id
  · exact h.update id id id
  · exact h

theorem receive_within {n : Nat} (h : s.Runs u) : (receive n u).Within s := by
  unfold receive
  split
  · exact h.update id id id
  · exact h

theorem jdecode_within {t : Tree} (h : s.Runs u) : (jdecode t u).Within s := by
  unfold jdecode
  split
  · exact h.update id id id
  · exact h.update id id id
  · exact h

theorem segment_within (h : s.Runs u) : (segment u).Within s := by
  unfold segment
  dsimp only
  split
  · exact h
  · split
    · exact h
    · split
      · exact h
      · exact h.update id id id

/-- Noting the bad table leaves a call running (R405). -/
theorem noteBadTable_ne_none {t : Nat} {r : Option Call} (h : r ≠ none) : noteBadTable t r ≠ none := by
  unfold noteBadTable
  split
  · nofun
  · exact h

theorem loadQuant_within {t : Nat} {wide : Bool} {entries : List Nat} (h : s.Runs u) (he : QuantFits entries) :
    (loadQuant t wide entries u).Within s := by
  unfold loadQuant
  split
  · exact h.update id (sized_of_files fun f => { f with qtDef := List.length_set.trans f.qtDef })
      fun ⟨hb, he, hr⟩ => ⟨hb, he, noteBadTable_ne_none hr⟩
  · exact h.update id
      (sized_of_files fun f => { f with
        qt := List.length_set.trans f.qt, tables := f.set_table t he, qtPrec := List.length_set.trans f.qtPrec,
        qtDef := List.length_set.trans f.qtDef }) id

theorem loadQuantTables_within {fuel : Nat} {payload : List Byte} (h : s.Runs u) :
    (loadQuantTables fuel payload u).Within s := by
  induction fuel generalizing payload u with
  | zero => exact h
  | succ fuel ih =>
    cases payload with
    | nil => exact h
    | cons b rest =>
      unfold loadQuantTables
      dsimp only
      generalize hsize : (if highNibble b == 1 then 128 else 64) = size
      split
      · exact h
      · have hlen : (rest.take size).length = if highNibble b == 1 then 128 else 64 := by
          rw [hsize]
          exact List.length_take_of_le (by omega)
        exact (loadQuant_within h (quantFits_quantEntries hlen)).bind fun _ v _ hv => ih hv

theorem dequantize_within {t : Nat} (h : s.Runs u) : (dequantize t u).Within s := by
  unfold dequantize
  split
  · exact h
  · exact h.update id (sized_of_files fun f => { f with dq := dequantFits_dequantValue u t }) id

end Sys2Proof.Machine

/-! SUPPORT. What every stream element leaves of the three invariants, unit by unit (42_inflate.md, 43_zlib.md, 44_png.md,
48_jpeg_decoder.md, 45_jpeg_entropy.md): inside a call, each next state may end the step. -/

namespace Sys2Proof.Machine

variable {s u v : State}

/-! INF. -/

theorem State.Runs.emitAll {bytes : List Byte} (h : s.Runs u) : s.Runs (emitAll bytes u) := by
  obtain ⟨o, w, i, e, -⟩ := emitAll_frame bytes u
  rw [e]
  exact h.update id id id

theorem State.Runs.copyBack {d n : Nat} (h : s.Runs u) : s.Runs (copyBack d n u) := by
  obtain ⟨o, w, i, e, -⟩ := copyBack_frame d n u
  rw [e]
  exact h.update id id id

theorem settled_beginRows (h : s.Runs u) : Settled s (beginRows u) := by
  unfold beginRows
  dsimp only
  split
  · exact settled_raise (h.update id id id)
  · exact settles_goesOn h id id id nofun

theorem settled_inflateDone (h : s.Runs u) : Settled s (inflateDone u) := by
  have hsum : s.Runs (sumAdler u) := h.update id id id
  unfold inflateDone
  split
  · exact settles_ends h id id
  · split
    · exact settles_ends hsum id id
    · exact settled_raise hsum
  · split
    · exact settled_beginRows hsum
    · exact settled_raise hsum
  · trivial

theorem settled_finishBlock (h : s.Runs u) : Settled s (finishBlock u) := by
  unfold finishBlock
  split
  · exact settled_inflateDone h
  · exact settles_goesOn h id id id nofun

theorem settled_execBlockStored {bfinal : Bool} (h : s.Runs u) : Settled s (execBlockStored bfinal u) := by
  have hlatched : s.Runs (latchHeader bfinal 0#2 u) := h.update id id id
  exact settles_goesOn hlatched.alignToByte id id id nofun

theorem settled_execStoredLenNlen {len nlen : Half} (h : s.Runs u) : Settled s (execStoredLenNlen len nlen u) := by
  unfold execStoredLenNlen
  dsimp only
  split
  · exact Res.Within.run (readBytes_within (h.update id id id)) fun _ _ hv => settled_finishBlock hv.emitAll
  · exact settled_raise (h.update id id id)

theorem settled_execDynCounts {hlit hdist : BitVec 5} {hclen : BitVec 4} (h : s.Runs u) :
    Settled s (execDynCounts hlit hdist hclen u) := by
  refine Res.Within.run (readClenFields_within (h.update id id id)) fun _ _ hv => ?_
  split
  · exact settles_goesOn hv id id id nofun
  · trivial

theorem settled_lengthsDone (h : s.Runs u) : Settled s (lengthsDone u) := by
  unfold lengthsDone
  split
  · exact settles_goesOn h id id id nofun
  · split
    · exact settles_goesOn h id id id nofun
    · trivial

theorem settled_appendLengths {v r : Nat} (h : s.Runs u) : Settled s (appendLengths v r u) := by
  unfold appendLengths
  split
  · exact settled_raise h
  · exact settled_lengthsDone (h.update id id id)

theorem settled_execClRep (h : s.Runs u) : Settled s (execClRep u) := by
  unfold execClRep
  split
  · exact settled_raise h
  · exact (readBits_within h).run fun _ _ hv => settled_appendLengths hv

theorem settled_matchLength {i : Nat} (h : s.Runs u) : Settled s (matchLength i u) :=
  (extraBits_within h).run fun _ _ hv => settles_goesOn hv id id id nofun

theorem settled_matchDistance {d : Nat} (h : s.Runs u) : Settled s (matchDistance d u) := by
  refine (extraBits_within h).run fun e v hv => ?_
  unfold copyMatch
  split
  · exact settled_raise hv
  · exact settles_goesOn hv.copyBack id id id nofun

/-! ZLB. -/

theorem settled_beginZlib (h : s.Runs u) : Settled s (beginZlib u) := by
  unfold beginZlib
  split
  · exact settled_raise h
  · exact settles_goesOn h id id id nofun

theorem settled_execZlibHdr {cmf flg : Byte} (h : s.Runs u) : Settled s (execZlibHdr cmf flg u) := by
  unfold execZlibHdr
  dsimp only
  split
  · exact settled_raise (h.update id id id)
  · exact settles_goesOn h id id id nofun

/-! PNG. -/

theorem settled_execChunkIhdr (h : s.Runs u) : Settled s (execChunkIhdr u) := by
  unfold execChunkIhdr
  split
  · exact settled_raise h
  · split
    · exact settled_raise h
    · exact settles_goesOn h id id id nofun

theorem settled_execChunkPlte (h : s.Runs u) : Settled s (execChunkPlte u) := by
  unfold execChunkPlte
  split
  · exact settled_raise h
  · split
    · exact settled_raise h
    · exact settles_goesOn h id id id nofun

theorem settled_execChunkIdat (h : s.Runs u) : Settled s (execChunkIdat u) := by
  unfold execChunkIdat
  split
  · exact settled_raise h
  · exact settles_goesOn h id id id nofun

theorem settled_execChunkIend (h : s.Runs u) : Settled s (execChunkIend u) := by
  unfold execChunkIend
  split
  · exact settled_raise h
  · exact settled_beginZlib (h.update id id fun ⟨hb, he, _⟩ => ⟨hb, he, nofun⟩)

theorem settled_execIhdrPayload {width height : Word} {depth color compression filter interlace : Byte} (h : s.Runs u) :
    Settled s (execIhdrPayload width height depth color compression filter interlace u) := by
  unfold execIhdrPayload
  dsimp only
  split
  · exact settled_raise (h.update id id id)
  · exact settles_goesOn h id id id nofun

theorem settled_checkHeader {legal : List Nat} (h : s.Runs u) : Settled s (checkHeader legal u) := by
  unfold checkHeader
  exact settled_ite (settled_raise h) <| settled_ite (settled_raise h) <| settled_ite (settled_raise h) <|
    settled_ite (settled_raise h) <| settles_goesOn h id id id nofun

theorem settled_convertRows {ch : Nat} {f : List Byte → Option (List Byte)} (h : s.Runs u) :
    Settled s (convertRows ch f u) := by
  unfold convertRows
  split
  · exact settles_ends h id id
  · exact settled_raise h

/-- A colour type converts the pixels or checks the header, by the control point (log 27). -/
theorem settled_convert_or_check {ch : Nat} {f : List Byte → Option (List Byte)} {legal : List Nat} (h : s.Runs u) :
    Settled s (if u.point = .pngConvert then convertRows ch f u else checkHeader legal u) := by
  split
  · exact settled_convertRows h
  · exact settled_checkHeader h

theorem settled_reconstructRow {pred : Byte → Byte → Byte → Byte} (h : s.Runs u) : Settled s (reconstructRow pred u) := by
  refine settles_goesOn h id id id ?_
  show (if _ then Point.pngRow else .pngConvert) ≠ .idle
  split <;> nofun

/-! The scan of a JPEG file. -/

theorem settles_beginBlock {c td ta : Nat} (h : s.Runs u) : s.Settles (beginBlock c td ta u) :=
  settles_goesOn h id (sized_of_files fun f => { f with coef := List.length_replicate }) id nofun

theorem settles_enterMcu (h : s.Runs u) : s.Settles (enterMcu u) := settles_beginBlock (h.update id id id)

theorem settles_beginMcu {mx my : Nat} (h : s.Runs u) : s.Settles (beginMcu mx my u) := by
  unfold beginMcu
  dsimp only
  split
  · exact settles_goesOn h id id id nofun
  · exact settles_enterMcu (h.update id id id)

theorem settles_nextBlock (h : s.Runs u) : s.Settles (nextBlock u) := by
  obtain ⟨jd, jc, co, jb, p, e, hp, hco, -⟩ := nextBlock_frame u
  rw [e]
  refine settles_goesOn h id (sized_of_files fun f => { f with coef := ?_ }) id ?_
  · rcases hco with rfl | hco
    · exact f.coef
    · exact hco
  · rcases hp with rfl | rfl | rfl <;> nofun

theorem settles_takeRestart (h : s.Runs u) : s.Settles (takeRestart u) :=
  settles_enterMcu (h.update id (sized_of_files fun f => { f with pred := List.length_replicate }) id)

theorem State.Runs.resetEntropy {p : Nat} (h : s.Runs u) : s.Runs (resetEntropy p u) :=
  h.update id (sized_of_files fun f => { f with pred := List.length_replicate }) id

theorem settles_beginScan (h : s.Runs u) : s.Settles (beginScan u) := by
  have hreset : s.Runs (resetEntropy u.jdec.pos u) := h.resetEntropy
  exact settles_beginMcu (hreset.update id id id)

theorem State.Runs.placeSamples (h : s.Runs u) : s.Runs (placeBlock (transform u)) :=
  h.update id (sized_of_files fun f => { f with samp := idct_length _, plane := List.length_set.trans f.plane }) id

theorem settled_blockDone (h : s.Runs u) : Settled s (blockDone u) := by
  unfold blockDone
  split
  · exact settles_ends h id id
  · exact (dequantize_within h).run fun _ _ hv => settles_nextBlock hv.placeSamples
  · trivial

/-! JDEC. -/

theorem settles_nextMarker (h : s.Runs u) : s.Settles (nextMarker u) := settles_goesOn h id id id nofun

theorem settled_execMSoi (h : s.Runs u) : Settled s (execMSoi u) := by
  unfold execMSoi
  split
  · exact settled_raise h
  · exact settles_nextMarker (h.update id id id)

theorem settled_execMEoi (h : s.Runs u) : Settled s (execMEoi u) := by
  unfold execMEoi
  dsimp only
  split
  · exact settled_raise (h.update id id id)
  · refine settles_ends h id (sized_of_files fun f => { f with jdc := ?_, jac := ?_ })
    · exact (List.length_map _).trans f.jdc
    · exact (List.length_map _).trans f.jac

theorem settled_execMSof0 (h : s.Runs u) : Settled s (execMSof0 u) :=
  (segment_within h).run fun _ _ hv => settled_unlessFail hv <| settled_unlessFail (hv.update id id id) <|
    settled_unlessFail (hv.update id id id) <| settles_nextMarker (hv.update id id id)

theorem settled_execMDqt (h : s.Runs u) : Settled s (execMDqt u) :=
  (segment_within h).run fun _ _ hv => (loadQuantTables_within hv).run fun _ _ hw => settles_nextMarker hw

theorem settled_execMDri (h : s.Runs u) : Settled s (execMDri u) :=
  (segment_within h).run fun _ _ hv => settled_unlessFail hv <| settles_nextMarker (hv.update id id id)

theorem filesFit_setJpegSlot (f : u.FilesFit) (n : Nat) (t : Tree) : (setJpegSlot u n t).FilesFit := by
  unfold setJpegSlot
  split
  · exact { f with jdc := List.length_set.trans f.jdc }
  · exact { f with jac := List.length_set.trans f.jac }

/-- A JPEG tree slot written, and the scratch released (R301, R370). -/
theorem State.Runs.loadSlot {n : Nat} {t : Tree} (h : s.Runs u) : s.Runs (releaseJhuf (setJpegSlot u n t)) := by
  refine h.update ?_ (sized_of_files fun f => { filesFit_setJpegSlot f n t with }) ?_
  · unfold setJpegSlot
    split <;> exact id
  · unfold setJpegSlot
    split <;> exact id

theorem settled_loadHuffTables {fuel : Nat} {payload : List Byte} (h : s.Runs u) :
    Settled s (loadHuffTables fuel payload u) := by
  induction fuel generalizing payload u with
  | zero => exact settles_nextMarker h
  | succ fuel ih =>
    cases payload with
    | nil => exact settles_nextMarker h
    | cons b rest =>
      unfold loadHuffTables
      dsimp only
      exact settled_ite (settled_raise h) <| settled_ite (settled_raise h) <| settled_ite (ih h.loadSlot) trivial

theorem settled_execMDht (h : s.Runs u) : Settled s (execMDht u) :=
  (segment_within h).run fun _ _ hv => settled_loadHuffTables hv

theorem settled_execMSos (h : s.Runs u) : Settled s (execMSos u) :=
  (segment_within h).run fun _ _ hv => settled_unlessFail hv <| settled_unlessFail (hv.update id id id) <|
    settles_beginScan (hv.update id id id)

theorem settled_execMRst {n : BitVec 3} (h : s.Runs u) : Settled s (execMRst n u) := by
  unfold execMRst
  split
  · exact settles_takeRestart h
  · exact settled_raise h

theorem settled_execMOther (code : Byte) (h : s.Runs u) : Settled s (execMOther code u) :=
  (segment_within h).run fun _ _ hv => settles_nextMarker hv

/-! JCOEF. -/

theorem settled_acLoop (h : s.Runs u) : Settled s (acLoop u) := by
  unfold acLoop
  split
  · exact settles_goesOn h id id id nofun
  · exact settled_blockDone h

theorem settled_execDcCat {t : BitVec 4} (h : s.Runs u) : Settled s (execDcCat t u) :=
  (receive_within h).run fun _ _ hv => settled_acLoop <|
    hv.update id
      (sized_of_files fun f => { f with coef := List.length_set.trans f.coef, pred := List.length_set.trans f.pred }) id

theorem settled_execAcRunsize {rs : Byte} (h : s.Runs u) : Settled s (execAcRunsize rs u) := by
  unfold execAcRunsize
  dsimp only
  split
  · exact settled_raise (h.update id id id)
  · exact (receive_within h).run fun _ _ hv => settled_acLoop <|
      hv.update id (sized_of_files fun f => { f with coef := List.length_set.trans f.coef }) id

end Sys2Proof.Machine

/-! SUPPORT. What every command leaves of the three invariants (30_encoding.md R101): whether it is taken or refused, each
next state may end the step. -/

namespace Sys2Proof.Machine

variable {s u : State}

/-! BR and HUF (40_bitreader.md, 41_huffman.md). -/

theorem State.Runs.endsValue {v : Nat} (h : s.Runs u) : s.Settles (endValue v u) := settles_ends h id id

theorem settled_execBrReset (h : s.Keeps u) : Settled s (execBrReset u) :=
  settled_whenIdle <| settles_ends (h.begun .plain) id id

theorem settled_execBrReadbits (h : s.Keeps u) : Settled s (execBrReadbits u) :=
  settled_whenIdle <| settled_whenBrLive <| settled_whenBitCount <|
    (readBits_within (h.begun .reader)).run fun _ _ hv => hv.endsValue

theorem settled_execBrReadbit (h : s.Keeps u) : Settled s (execBrReadbit u) :=
  settled_whenIdle <| settled_whenBrLive <| (readBits_within (h.begun .reader)).run fun _ _ hv => hv.endsValue

theorem settled_execBrReadbitsRev (h : s.Keeps u) : Settled s (execBrReadbitsRev u) :=
  settled_whenIdle <| settled_whenBrLive <| settled_whenBitCount <|
    (readBitsReversed_within (h.begun .reader)).run fun _ _ hv => hv.endsValue

theorem settled_execBrAlign (h : s.Keeps u) : Settled s (execBrAlign u) :=
  settled_whenIdle <| settled_whenBrLive <| settles_ends (h.begun .reader).alignToByte id id

theorem settled_execBrReadbytes (h : s.Keeps u) : Settled s (execBrReadbytes u) :=
  settled_whenIdle <| settled_whenBrLive <|
    (readBytes_within (h.begun .reader)).run fun _ _ hv => settles_ends hv id id

theorem settled_execHufBuild (h : s.Keeps u) : Settled s (execHufBuild u) :=
  settled_whenIdle <| settled_ite trivial <| settled_ite (settles_ends (h.begun .plain) id id) trivial

theorem State.Runs.withFixedTrees {ll d : Tree} (h : s.Runs u) (hll : ll = fixedLitTree) (hd : d = fixedDistTree) :
    s.Runs { u with tFixLL := ll, tFixD := d } :=
  h.update (fun ⟨hcrc, _, _⟩ => ⟨hcrc, hll, hd⟩) id id

theorem State.Runs.releaseHuf (h : s.Runs u) : s.Runs (releaseHuf u) := h.update id id id

/-- `HUF_BUILD_FIXED` writes the two fixed trees, and what it writes is what they hold (R165 to R167). -/
theorem settled_execHufBuildFixed (h : s.Keeps u) : Settled s (execHufBuildFixed u) :=
  settled_whenIdle <| settles_ends ((h.begun .plain).withFixedTrees rfl rfl).releaseHuf id id

theorem settled_execHufDecode (h : s.Keeps u) : Settled s (execHufDecode u) := by
  refine settled_whenIdle <| settled_whenBrLive ?_
  split
  · trivial
  · split
    · exact (decodeSymbol_within (h.begun .reader)).run fun _ _ hv => hv.endsValue
    · trivial

/-! The whole-stream commands (70_reset_and_hazards.md R442). -/

theorem State.Keeps.begunStream (h : s.Keeps u) (c : Call) : s.Runs (beginStream c u) := (h.begun c).update id id id

theorem settled_execInfDecompress (h : s.Keeps u) : Settled s (execInfDecompress u) :=
  settled_whenIdle <| settles_goesOn (h.begunStream .inflate) id id id nofun

theorem settled_execZlbDecompress (h : s.Keeps u) : Settled s (execZlbDecompress u) :=
  settled_whenIdle (settled_beginZlib (h.begunStream .zlib))

theorem settled_execPngDecode (h : s.Keeps u) : Settled s (execPngDecode u) :=
  settled_whenIdle <| settles_goesOn (h.begunStream .png) id id id nofun

theorem settled_execJpegDecode (h : s.Keeps u) : Settled s (execJpegDecode u) := by
  refine settled_whenIdle <| settles_goesOn (h.begunStream (.jpeg none)) id (sized_of_files fun f => { f with
    qtDef := List.length_replicate, qtPrec := List.length_replicate, pred := List.length_replicate,
    jdc := ?_, jac := ?_ }) id nofun
  · exact (List.length_map _).trans f.jdc
  · exact (List.length_map _).trans f.jac

/-! JHUF, JCOEF, JDQ, JIDCT and JCC (45_jpeg_entropy.md, 46_jpeg_dequant_idct.md, 47_jpeg_color.md). -/

theorem settled_execJhufBuild (h : s.Keeps u) : Settled s (execJhufBuild u) := by
  unfold execJhufBuild
  generalize inputCounts u = counts
  generalize inputSymbols u = syms
  exact settled_whenIdle <| settled_ite trivial <| settled_ite (settles_ends (h.begun .plain).loadSlot id id) trivial

theorem settled_execJcReset (h : s.Keeps u) : Settled s (execJcReset u) := by
  refine settled_whenIdle ?_
  split
  · trivial
  · exact settles_ends ((h.begun .plain).resetEntropy) id id

theorem settled_execJcBlock (h : s.Keeps u) : Settled s (execJcBlock u) :=
  settled_whenIdle <| settled_ite trivial <| settled_ite trivial <| settled_ite trivial <|
    settles_beginBlock (h.begun _)

theorem settled_execJdqLoad (h : s.Keeps u) : Settled s (execJdqLoad u) := by
  refine settled_whenIdle ?_
  split
  · trivial
  · have hlen : (inBytes u 0 (quantLoadBytes u)).length = if quantLoadWide u then 128 else 64 := by
      simp [inBytes, quantLoadBytes]
    exact (loadQuant_within (h.begun _) (quantFits_quantEntries hlen)).run fun _ _ hv => settles_ends hv id id

theorem settled_execJdqBlock (h : s.Keeps u) : Settled s (execJdqBlock u) := by
  refine settled_whenIdle ?_
  split
  · trivial
  · exact (dequantize_within (h.begun .dequant)).run fun _ _ hv => settles_ends hv id id

theorem settled_execJidctBlock (h : s.Keeps u) : Settled s (execJidctBlock u) :=
  settled_whenIdle <| settles_ends (h.begun .plain) id (sized_of_files fun f => { f with samp := idct_length _ })

theorem settled_execJccPixel (h : s.Keeps u) : Settled s (execJccPixel u) :=
  settled_whenIdle <| settles_ends (h.begun .plain) id id

theorem settled_execJccGray (h : s.Keeps u) : Settled s (execJccGray u) :=
  settled_whenIdle <| settles_ends (h.begun .plain) id id

end Sys2Proof.Machine

/-! SUPPORT. Every step leaves the three invariants: the meaning of the instruction dispatched, the fetch (10_state.md R21),
and the host's operations between calls (R22; 30_encoding.md R102; 60_exceptions.md R416, R422). -/

namespace Sys2Proof.Machine

variable {s u v : State}

/-- Each instruction: a command from any state, a stream element from inside a call. -/
theorem settled_exec {i : Instr} (h : s.Keeps u) (hr : formatOf i ≠ .cmd → s.Runs u) : Settled s (exec i u) := by
  cases i with
  | brReset => exact settled_execBrReset h
  | brReadbits => exact settled_execBrReadbits h
  | brReadbit => exact settled_execBrReadbit h
  | brReadbitsRev => exact settled_execBrReadbitsRev h
  | brAlign => exact settled_execBrAlign h
  | brReadbytes => exact settled_execBrReadbytes h
  | hufBuild => exact settled_execHufBuild h
  | hufBuildFixed => exact settled_execHufBuildFixed h
  | hufDecode => exact settled_execHufDecode h
  | infDecompress => exact settled_execInfDecompress h
  | zlbDecompress => exact settled_execZlbDecompress h
  | pngDecode => exact settled_execPngDecode h
  | jhufBuild => exact settled_execJhufBuild h
  | jcReset => exact settled_execJcReset h
  | jcBlock => exact settled_execJcBlock h
  | jdqLoad => exact settled_execJdqLoad h
  | jdqBlock => exact settled_execJdqBlock h
  | jidctBlock => exact settled_execJidctBlock h
  | jccPixel => exact settled_execJccPixel h
  | jccGray => exact settled_execJccGray h
  | jpegDecode => exact settled_execJpegDecode h
  | blockStored => exact settled_execBlockStored (hr nofun)
  | blockFixed | blockDynamic => exact settles_goesOn (hr nofun) id id id nofun
  | blockReserved => exact settled_raise ((hr nofun).update id id id)
  | storedLenNlen => exact settled_execStoredLenNlen (hr nofun)
  | dynCounts => exact settled_execDynCounts (hr nofun)
  | clLen => exact settled_lengthsDone ((hr nofun).update id id id)
  | clRep => exact settled_execClRep (hr nofun)
  | clZero3 | clZero11 => exact (readBits_within (hr nofun)).run fun _ _ hv => settled_appendLengths hv
  | lit => exact settles_goesOn (hr nofun) id id id nofun
  | eob => exact settled_finishBlock (hr nofun)
  | len257 | len258 | len259 | len260 | len261 | len262 | len263 | len264 | len265 | len266 | len267 | len268 |
    len269 | len270 | len271 | len272 | len273 | len274 | len275 | len276 | len277 | len278 | len279 | len280 |
    len281 | len282 | len283 | len284 | len285 =>
    simp only [exec, execLen257, execLen258, execLen259, execLen260, execLen261, execLen262, execLen263, execLen264,
      execLen265, execLen266, execLen267, execLen268, execLen269, execLen270, execLen271, execLen272,
      execLen273, execLen274, execLen275, execLen276, execLen277, execLen278, execLen279, execLen280,
      execLen281, execLen282, execLen283, execLen284, execLen285]
    exact settled_matchLength (hr nofun)
  | dist0 | dist1 | dist2 | dist3 | dist4 | dist5 | dist6 | dist7 | dist8 | dist9 | dist10 | dist11 | dist12 |
    dist13 | dist14 | dist15 | dist16 | dist17 | dist18 | dist19 | dist20 | dist21 | dist22 | dist23 | dist24 |
    dist25 | dist26 | dist27 | dist28 | dist29 =>
    simp only [exec, execDist0, execDist1, execDist2, execDist3, execDist4, execDist5, execDist6, execDist7,
      execDist8, execDist9, execDist10, execDist11, execDist12, execDist13, execDist14, execDist15, execDist16,
      execDist17, execDist18, execDist19, execDist20, execDist21, execDist22, execDist23, execDist24,
      execDist25, execDist26, execDist27, execDist28, execDist29]
    exact settled_matchDistance (hr nofun)
  | fixll0to143 | fixll144to255 | fixll256to279 | fixll280to287 | fixd0to31 => exact settles_goesOn (hr nofun) id id id nofun
  | zlibHdr => exact settled_execZlibHdr (hr nofun)
  | pngSignature => exact settles_goesOn (hr nofun) id id id nofun
  | chunkIhdr => exact settled_execChunkIhdr (hr nofun)
  | chunkPlte => exact settled_execChunkPlte (hr nofun)
  | chunkIdat => exact settled_execChunkIdat (hr nofun)
  | chunkIend => exact settled_execChunkIend (hr nofun)
  | chunkOther => exact settles_goesOn (hr nofun) id id id nofun
  | ihdrPayload => exact settled_execIhdrPayload (hr nofun)
  | ctGray | ctTruecolor | ctIndexed | ctGrayAlpha | ctTruecolorAlpha =>
    exact settled_convert_or_check (hr nofun)
  | filterNone | filterSub | filterUp | filterAverage | filterPaeth => exact settled_reconstructRow (hr nofun)
  | mSoi => exact settled_execMSoi (hr nofun)
  | mEoi => exact settled_execMEoi (hr nofun)
  | mSof0 => exact settled_execMSof0 (hr nofun)
  | lenInvalid | distInvalid | ctInvalid | filterInvalid | mSof1 | mSof2 | mSof3 | mSof5 | mSof6 | mSof7 | mSof9 |
    mSof10 | mSof11 | mSof13 | mSof14 | mSof15 | dcInvalid =>
    exact settled_raise (hr nofun)
  | mDht => exact settled_execMDht (hr nofun)
  | mDqt => exact settled_execMDqt (hr nofun)
  | mDri => exact settled_execMDri (hr nofun)
  | mSos => exact settled_execMSos (hr nofun)
  | mRst => exact settled_execMRst (hr nofun)
  | mOther code => exact settled_execMOther code (hr nofun)
  | dcCat => exact settled_execDcCat (hr nofun)
  | acEob => exact settled_blockDone (hr nofun)
  | acZrl => exact settled_acLoop ((hr nofun).update id id id)
  | acRunsize => exact settled_execAcRunsize (hr nofun)

/-! The fetch. -/

/-- The fetch leaves the call running, or fails inside it. -/
def Fetched.Within (s : State) : Fetched → Prop
  | .element _ _ u => s.Runs u
  | .fail _ u => s.Runs u
  | .refuse _ => True

theorem Res.Within.fetched {x : Res Nat} (hx : x.Within s) {f : Format} : (Fetched.ofRes f x).Within s := by
  cases x with
  | ok w u => exact hx
  | fail k u => exact hx

theorem fetchSymbol_within {f : Format} {t : Tree} (h : s.Runs u) : (fetchSymbol f t u).Within s := by
  unfold fetchSymbol
  split
  · exact (decodeSymbol_within h).fetched
  · trivial

theorem fetchJpegSymbol_within {f : Format} {t : Tree} (h : s.Runs u) : (fetchJpegSymbol f t u).Within s := by
  unfold fetchJpegSymbol
  split
  · exact (jdecode_within h).fetched
  · trivial

theorem fixedLitCode_within (h : s.Runs u) : (fixedLitCode u).Within s := by
  unfold fixedLitCode
  split
  · exact readBitsReversed_within h
  · split
    · exact readBitsReversed_within h
    · exact readBitsReversed_within h

theorem fetchSignature_within (h : s.Runs u) : (fetchSignature u).Within s := by
  unfold fetchSignature
  split
  · exact h
  · split
    · exact h
    · exact h

theorem fetchChunk_within (h : s.Runs u) : (fetchChunk u).Within s := by
  have hlatched : s.Runs (latchChunk u) := h.update id id id
  unfold fetchChunk
  dsimp only
  split
  · exact h
  · split
    · exact hlatched
    · split
      · exact hlatched
      · exact hlatched

theorem fetchSoi_within (h : s.Runs u) : (fetchSoi u).Within s := by
  unfold fetchSoi
  split
  · exact h
  · split
    · exact h
    · exact h

theorem fetchMarker_within (h : s.Runs u) : (fetchMarker u).Within s := by
  unfold fetchMarker
  dsimp only
  split
  · exact h
  · split
    · exact h
    · exact h.update id id id

theorem fetchRestart_within (h : s.Runs u) : (fetchRestart u).Within s := by
  unfold fetchRestart
  dsimp only
  split
  · exact h.update id id id
  · split
    · exact h.update id id id
    · exact h.update id id id

theorem fetch_within (h : s.Runs u) : (fetch u).Within s := by
  unfold fetch
  split
  · exact h
  · exact (readBits_within h).fetched
  · exact (readBits_within h).fetched
  · exact (readBits_within h).fetched
  · exact fetchSymbol_within h
  · split
    · exact (fixedLitCode_within h).fetched
    · exact fetchSymbol_within h
  · exact h
  · split
    · exact (readBitsReversed_within h).fetched
    · exact fetchSymbol_within h
  · exact h
  · exact h
  · exact fetchSignature_within h
  · exact fetchChunk_within h
  · exact h
  · exact h
  · exact h
  · exact h
  · exact fetchSoi_within h
  · exact fetchMarker_within h
  · exact fetchRestart_within h
  · exact fetchJpegSymbol_within h
  · exact fetchJpegSymbol_within h

theorem Fetched.Within.run {x : Fetched} (hx : x.Within s) : Settled s (runFetched x) := by
  cases x with
  | element f w u =>
    show Settled s (runElement f w u)
    unfold runElement
    split
    · exact settled_exec (State.Runs.toKeeps hx) fun _ => hx
    · trivial
  | fail k u => exact settled_raise hx
  | refuse r => trivial

/-! The host's operations. -/

/-- A code of R101 names a command. -/
theorem formatOf_of_decode_cmd {w : Nat} {i : Instr} (h : decode .cmd w = .ok i) : formatOf i = .cmd := by
  have hcommands : ∀ row ∈ cmdTable, formatOf row.2 = .cmd := by decide
  replace h : decodeCmd w = .ok i := h
  unfold decodeCmd at h
  split at h
  · rename_i j hj
    cases h
    obtain ⟨l, r, hsplit, -⟩ := List.lookup_eq_some_iff.1 hj
    exact hcommands (w, i) (by simp [hsplit])
  · cases h

/-- What the host does at rest; a write of other registers leaves the three invariants as they are. -/
theorem State.Settles.update (h : s.Settles u) (hc : u.Constants → v.Constants) (hz : u.Sized → v.Sized)
    (hl : u.Legal → v.Legal) : s.Settles v :=
  ⟨⟨hc ∘ h.constants, hz ∘ h.sized⟩, hl ∘ h.legal⟩

theorem State.Settles.refl (s : State) : s.Settles s := ⟨State.Keeps.refl s, id⟩

theorem settled_writeRegister {no : Nat} {w : Word} (h : s.Settles u) : Settled s (writeRegister no w u) := by
  unfold writeRegister
  split
  · unfold writeCommand
    split
    · rename_i i hi
      exact settled_exec ⟨h.constants, h.sized⟩ fun hne => absurd (formatOf_of_decode_cmd hi) hne
    · trivial
  · exact settled_ite (h.update id id id) <| settled_ite (h.update id id id) <| settled_ite (h.update id id id) <|
      settled_ite (h.update id id id) <| settled_ite trivial trivial

theorem settled_returnHost {vs : List Int} (h : s.Settles u) : Settled s (returnHost vs u) := h.update id id id

theorem settled_readRegister {no : Nat} (h : s.Settles u) : Settled s (readRegister no u) := by
  unfold readRegister
  split
  · exact settled_returnHost h
  · trivial

theorem settled_readBuffer {buf : HostBuf} {i : Nat} (h : s.Settles u) : Settled s (readBuffer buf i u) := by
  unfold readBuffer
  split
  · exact settled_returnHost h
  · trivial

theorem settled_readOutput {i : Nat} (h : s.Settles u) : Settled s (readOutput i u) := by
  unfold readOutput
  split
  · exact settled_returnHost h
  · trivial

/-- An entry of a quantization table written within its width (R51, R102). -/
theorem quantFits_set {q : List Nat} (hq : QuantFits q) (k : Nat) {e : Int} (he : e ≤ 65535) :
    QuantFits (q.set k e.toNat) := by
  refine ⟨List.length_set.trans hq.1, fun x hx => ?_⟩
  rcases List.mem_or_eq_of_mem_set hx with hx | rfl
  · exact hq.2 x hx
  · omega

/-- An entry of `DQ` written within its width (R53, R102). -/
theorem dequantFits_set {d : List Int} (hd : DequantFits d) (k : Nat) {e : Int} (he : -32768 ≤ e ∧ e ≤ 32767) :
    DequantFits (d.set k e) := by
  refine ⟨List.length_set.trans hd.1, fun x hx => ?_⟩
  rcases List.mem_or_eq_of_mem_set hx with hx | rfl
  · exact hd.2 x hx
  · exact he

theorem filesFit_setBuffer (f : u.FilesFit) {buf : HostBuf} {i : Nat} {e : Int} (hi : i < bufferSize buf)
    (he : bufferFits buf e = true) : (setBuffer buf i e u).FilesFit := by
  cases buf with
  | coef => exact { f with coef := List.length_set.trans f.coef }
  | dq => exact { f with dq := dequantFits_set f.dq i ((bufferFits_dq e).1 he) }
  | samp => exact f
  | pred => exact { f with pred := List.length_set.trans f.pred }
  | qt =>
    have hlt : i / 64 < u.qt.length := by
      rw [f.qt]
      exact Nat.div_lt_of_lt_mul hi
    have hrow : QuantFits (u.qt.getD (i / 64) []) := by
      rw [getD_of_lt hlt]
      exact f.tables _ (List.getElem_mem hlt)
    have hle : e ≤ 65535 := ((bufferFits_qt e).1 he).2
    exact { f with
      qt := List.length_set.trans f.qt, tables := f.set_table _ (quantFits_set hrow (i % 64) hle) }
  | qtDef => exact { f with qtDef := List.length_set.trans f.qtDef }
  | qtPrec => exact { f with qtPrec := List.length_set.trans f.qtPrec }

theorem settled_writeBuffer {buf : HostBuf} {i : Nat} {e : Int} (h : s.Settles u) :
    Settled s (writeBuffer buf i e u) := by
  unfold writeBuffer
  split
  · rename_i hfit
    refine h.update ?_ (sized_of_files fun f => filesFit_setBuffer f hfit.1 hfit.2) ?_
    · cases buf <;> exact id
    · cases buf <;> exact id
  · trivial

theorem quantFits_zero : QuantFits (List.replicate 64 0) := ⟨rfl, by decide⟩

theorem dequantFits_zero : DequantFits (List.replicate 64 0) := ⟨rfl, by decide⟩

/-- The state after a reset by the host (R440, R422). -/
theorem settles_resetCore (s u : State) : s.Settles (resetCore u) where
  constants _ := ⟨rfl, rfl, rfl⟩
  sized _ := State.FilesFit.sized ⟨rfl, fun q hq => List.eq_of_mem_replicate hq ▸ quantFits_zero, rfl, rfl, rfl,
    dequantFits_zero, rfl, rfl, rfl, rfl, rfl⟩
  legal _ := ⟨Nat.zero_le _, Nat.zero_le _, ⟨fun h => absurd h (by decide : statusIdle ≠ statusBusy), fun h => absurd rfl h⟩,
    ⟨fun _ => rfl, fun _ => rfl⟩, fun _ => rfl⟩

theorem settled_runHostOp {op : HostOp} (h : s.Settles u) : Settled s (runHostOp op u) := by
  cases op with
  | writeReg no w => exact settled_writeRegister h
  | readReg no => exact settled_readRegister h
  | writeInput i w => exact h.update id id id
  | readBuf buf i => exact settled_readBuffer h
  | writeBuf buf i e => exact settled_writeBuffer h
  | readOut i => exact settled_readOutput h
  | reset => exact settles_resetCore s u

theorem settled_hostStep (s : State) : Settled s (hostStep s) := by
  unfold hostStep
  split
  · exact State.Settles.refl s
  · exact settled_runHostOp ((State.Settles.refl s).update id id id)

/-- Every step: at rest the host's, inside a call the fetched element's (R21, R22). -/
theorem settled_step (s : State) : Settled s (step s) := by
  unfold step stepOnce
  split
  · exact settled_hostStep s
  · rename_i hp
    exact (fetch_within ⟨State.Keeps.refl s, fun hl => hl.busy hp⟩).run

/-- Settles O4. Every instruction, the fetch and every host operation keep the read-only tables; the only writer,
`HUF_BUILD_FIXED`, builds the trees they already are. -/
theorem stepKeepsReadOnlyTables : Obligations.StepKeepsReadOnlyTables :=
  fun s _ hc hstep => ((settled_step s).of_next hstep).constants hc

/-- Settles O5. A step inside a call goes on with `STATUS` and the call untouched, or ends it OK or FAILED with the kind's
code; a command starts from any legal state. -/
theorem stepKeepsStatusLegal : Obligations.StepKeepsStatusLegal :=
  fun s _ hl hstep => ((settled_step s).of_next hstep).legal hl

/-- Settles O8. Each writer of a register file keeps its size and the widths of its entries. -/
theorem stepKeepsRegisterFilesSized : Obligations.StepKeepsRegisterFilesSized :=
  fun s _ hz hstep => ((settled_step s).of_next hstep).sized hz

end Sys2Proof.Machine

/-! SUPPORT. A step as the host sees it: the instruction it decodes (10_state.md R21; 30_encoding.md R100) and the register,
input and buffer operations (10_state.md R22, R32; 30_encoding.md R102; 60_exceptions.md R416). -/

namespace Sys2Proof.Machine

variable {s : State}

/-- Inside a call a step runs what was fetched (R21). -/
theorem step_in_call (hp : s.point ≠ .idle) : step s = runFetched (fetch s) := if_neg hp

/-- At rest with nothing to do the core waits (log 2). -/
theorem step_of_no_host (hp : s.point = .idle) (hh : s.host = []) : step s = .next s := by
  unfold step stepOnce hostStep
  rw [if_pos hp, hh]

/-- At rest a step takes the host's next operation (log 2). -/
theorem step_of_host {op : HostOp} {rest : List HostOp} (hp : s.point = .idle) (hh : s.host = op :: rest) :
    step s = runHostOp op { s with host := rest } := by
  unfold step stepOnce hostStep
  rw [if_pos hp, hh]

theorem runElement_ok {f : Format} {w : Nat} {i : Instr} (h : decode f w = .ok i) (s : State) :
    runElement f w s = exec i s := by
  unfold runElement
  rw [h]

/-- `CMD` takes the low 8 bits of the word (log 11). -/
theorem setWidth_eight_toNat (v : Word) : (v.setWidth 8).toNat = v.toNat % 256 := BitVec.toNat_setWidth ..

theorem writeCommand_ok {v : Word} {i : Instr} (h : decode .cmd (v.toNat % 256) = .ok i) (s : State) :
    writeCommand v s = exec i { s with cmd := v.setWidth 8 } := by
  unfold writeCommand
  rw [setWidth_eight_toNat, h]

theorem writeCommand_error {v : Word} {e : Reject} (h : decode .cmd (v.toNat % 256) = .error e) (s : State) :
    writeCommand v s = .refused .illegalCommand := by
  unfold writeCommand
  rw [setWidth_eight_toNat, h]

/-- Every command is guarded by the test that no call runs (R22, R100). -/
theorem exec_command_guarded {i : Instr} (h : formatOf i = .cmd) (s : State) : ∃ k, exec i s = whenIdle s k := by
  cases i with
  | brReset | brReadbits | brReadbit | brReadbitsRev | brAlign | brReadbytes | hufBuild | hufBuildFixed | hufDecode |
    infDecompress | zlbDecompress | pngDecode | jhufBuild | jcReset | jcBlock | jdqLoad | jdqBlock | jidctBlock |
    jccPixel | jccGray | jpegDecode => exact ⟨_, rfl⟩
  | _ => cases h

/-- Settles O18. The fetch gives the element, the format its instruction; at rest the write of `CMD` gives the command. -/
theorem stepRunsTheDecodedInstruction : Obligations.StepRunsTheDecodedInstruction := by
  refine ⟨fun s hp => ⟨fun f w t i hf hd => ?_, fun k t hf => ?_, fun r hf => ?_⟩,
    fun s v rest hp hh => ⟨fun i hd => ?_, fun e hd => ?_⟩, fun i s hi hr => ?_⟩
  · rw [step_in_call hp, hf]
    exact runElement_ok hd t
  · rw [step_in_call hp, hf]
    rfl
  · rw [step_in_call hp, hf]
    rfl
  · rw [step_of_host hp hh]
    exact writeCommand_ok hd _
  · rw [step_of_host hp hh]
    exact writeCommand_error hd _
  · obtain ⟨k, hk⟩ := exec_command_guarded hi s
    rw [hk, whenIdle_busy hr]

/-! Registers (R22, R416). -/

theorem writeRegister_readOnly {no : Nat} (h : (1 ≤ no ∧ no ≤ 3) ∨ (8 ≤ no ∧ no ≤ 12)) (v : Word) (s : State) :
    writeRegister no v s = .refused .readOnlyRegister := by
  unfold writeRegister
  rw [if_neg (by omega), if_neg (by omega), if_neg (by omega), if_neg (by omega), if_neg (by omega), if_pos (by omega)]

theorem writeRegister_absent {no : Nat} (h : 13 ≤ no) (v : Word) (s : State) :
    writeRegister no v s = .refused .noSuchRegister := by
  unfold writeRegister
  rw [if_neg (by omega), if_neg (by omega), if_neg (by omega), if_neg (by omega), if_neg (by omega), if_neg (by omega)]

theorem readRegister_of_value {no : Nat} {vs : List Int} (h : registerValue no s = some vs) :
    readRegister no s = returnHost vs s := by
  unfold readRegister
  rw [h]

theorem readRegister_absent {no : Nat} (h : 13 ≤ no) (s : State) : readRegister no s = .refused .noSuchRegister := by
  have hnone : registerValue no s = none := by
    unfold registerValue
    rw [if_neg (by omega), if_neg (by omega), if_neg (by omega), if_neg (by omega), if_neg (by omega), if_neg (by omega),
      if_neg (by omega), if_neg (by omega)]
  unfold readRegister
  rw [hnone, if_neg (by omega)]

/-! Buffers (R32, R102). -/

theorem writeBuffer_fits {buf : HostBuf} {i : Nat} {v : Int} (hi : i < bufferSize buf) (hv : bufferFits buf v = true)
    (s : State) : writeBuffer buf i v s = .next (setBuffer buf i v s) := if_pos ⟨hi, hv⟩

theorem writeBuffer_refused {buf : HostBuf} {i : Nat} {v : Int} (h : bufferSize buf ≤ i ∨ bufferFits buf v ≠ true)
    (s : State) : writeBuffer buf i v s = .refused .hostAccess :=
  if_neg fun ⟨hi, hv⟩ => h.elim (fun h => absurd hi (Nat.not_lt.2 h)) fun h => h hv

theorem readBuffer_some {buf : HostBuf} {i : Nat} {v : Int} (h : bufferValue buf i s = some v) :
    readBuffer buf i s = returnHost [v] s := by
  unfold readBuffer
  rw [h]

theorem readBuffer_none {buf : HostBuf} {i : Nat} (h : bufferValue buf i s = none) :
    readBuffer buf i s = .refused .hostAccess := by
  unfold readBuffer
  rw [h]

theorem readOutput_some {i : Nat} {b : Byte} (h : s.out[i]? = some b) :
    readOutput i s = returnHost [(b.toNat : Int)] s := by
  unfold readOutput
  rw [h]

theorem readOutput_none {i : Nat} (h : s.out.length ≤ i) : readOutput i s = .refused .hostAccess := by
  unfold readOutput
  rw [List.getElem?_eq_none h]

/-- An access outside the buffer or its values is refused, whatever the buffer (log 18). -/
theorem writeBuffer_outside {buf : HostBuf} {size : Nat} {fits : Int → Prop}
    (hrow : (buf, size, fits) ∈ [(HostBuf.coef, 64, fun _ => True), (.dq, 64, fun v => -32768 ≤ v ∧ v ≤ 32767),
      (.pred, 3, fun _ => True), (.qt, 256, fun v => 0 ≤ v ∧ v ≤ 65535), (.qtDef, 4, fun v => v = 0 ∨ v = 1),
      (.qtPrec, 4, fun v => v = 0 ∨ v = 1), (.samp, 0, fun _ => True)])
    {k : Nat} {v : Int} (h : size ≤ k ∨ ¬ fits v) (s : State) : writeBuffer buf k v s = .refused .hostAccess := by
  simp only [List.mem_cons, List.not_mem_nil, or_false, Prod.mk.injEq] at hrow
  apply writeBuffer_refused
  rcases hrow with ⟨rfl, rfl, rfl⟩ | ⟨rfl, rfl, rfl⟩ | ⟨rfl, rfl, rfl⟩ | ⟨rfl, rfl, rfl⟩ | ⟨rfl, rfl, rfl⟩ |
    ⟨rfl, rfl, rfl⟩ | ⟨rfl, rfl, rfl⟩
  · exact h.imp id fun h => absurd trivial h
  · exact h.imp id (mt (bufferFits_dq v).1)
  · exact h.imp id fun h => absurd trivial h
  · exact h.imp id (mt (bufferFits_qt v).1)
  · exact h.imp id (mt (bufferFits_qtDef v).1)
  · exact h.imp id (mt (bufferFits_qtPrec v).1)
  · exact .inr nofun

/-- What a read of a buffer finds there (R102). -/
theorem bufferValue_content {buf : HostBuf} {content : List Int} (s : State)
    (hrow : (buf, content) ∈ [(HostBuf.coef, s.coef), (.dq, s.dq), (.samp, s.samp.map fun b => (b.toNat : Int)), (.pred, s.pred),
      (.qtDef, s.qtDef.map fun b => if b then 1 else 0), (.qtPrec, [])]) (k : Nat) :
    bufferValue buf k s = content[k]? := by
  simp only [List.mem_cons, List.not_mem_nil, or_false, Prod.mk.injEq] at hrow
  rcases hrow with ⟨rfl, rfl⟩ | ⟨rfl, rfl⟩ | ⟨rfl, rfl⟩ | ⟨rfl, rfl⟩ | ⟨rfl, rfl⟩ | ⟨rfl, rfl⟩
  · rfl
  · rfl
  · exact List.getElem?_map.symm
  · rfl
  · exact List.getElem?_map.symm
  · rfl

/-- Entry `k` of table `t` has the index `64*t + k` (R51). -/
theorem bufferValue_qt (s : State) (t : Nat) {k : Nat} (hk : k < 64) :
    bufferValue .qt (64 * t + k) s = ((s.qt.getD t [])[k]?).map fun n => (n : Int) := by
  have hdiv : (64 * t + k) / 64 = t := by omega
  have hmod : (64 * t + k) % 64 = k := by omega
  simp only [bufferValue, hdiv, hmod]

theorem writeBuffer_qt {t k : Nat} {v : Int} (ht : t < 4) (hk : k < 64) (hv : 0 ≤ v ∧ v ≤ 65535) (s : State) :
    writeBuffer .qt (64 * t + k) v s = .next { s with qt := s.qt.set t ((s.qt.getD t []).set k v.toNat) } := by
  have hdiv : (64 * t + k) / 64 = t := by omega
  have hmod : (64 * t + k) % 64 = k := by omega
  have hsize : 64 * t + k < bufferSize .qt := by
    show 64 * t + k < 256
    omega
  rw [writeBuffer_fits hsize ((bufferFits_qt v).2 hv)]
  simp only [setBuffer, hdiv, hmod]

/-- Settles O20, operation by operation, from the rule of each accessor. -/
theorem hostReadsAndWritesRegisters : Obligations.HostReadsAndWritesRegisters := by
  refine fun s hp => ⟨step_of_no_host hp, fun op rest hh => ?_⟩
  have hstep := step_of_host hp hh
  refine ⟨fun v => ⟨?_, ?_, ?_, ?_, fun no hop hno => ?_, fun no hop hno => ?_⟩, fun no x hrow hop => ?_, ?_,
    fun no hno hop => ?_, fun no hop hno => ?_, ?_, fun k v => ⟨?_, ?_, ?_, fun t ht hk h0 h1 hop => ?_, ?_, ?_⟩,
    fun buf size fits hrow k v hop h => ?_, fun buf content hrow k hop => ⟨fun v hv => ?_, fun hk => ?_⟩,
    fun t k hk hop => ⟨fun q hq => ?_, fun hlen => ?_⟩, fun k hop => ⟨fun b hb => ?_, fun hk => ?_⟩⟩
  -- writes of registers
  · rintro rfl; exact hstep
  · rintro rfl; exact hstep
  · rintro rfl; exact hstep
  · rintro rfl; exact hstep
  · subst hop; exact hstep.trans (writeRegister_readOnly hno v _)
  · subst hop; exact hstep.trans (writeRegister_absent hno v _)
  -- reads of registers
  · subst hop
    refine hstep.trans (readRegister_of_value ?_)
    simp only [List.mem_cons, List.not_mem_nil, or_false, Prod.mk.injEq] at hrow
    rcases hrow with ⟨rfl, rfl⟩ | ⟨rfl, rfl⟩ | ⟨rfl, rfl⟩ | ⟨rfl, rfl⟩ | ⟨rfl, rfl⟩ | ⟨rfl, rfl⟩ | ⟨rfl, rfl⟩ <;> rfl
  · rintro rfl; exact hstep
  · subst hop
    simp only [List.mem_cons, List.not_mem_nil, or_false] at hno
    rcases hno with rfl | rfl | rfl | rfl | rfl <;> exact hstep
  · subst hop; exact hstep.trans (readRegister_absent hno _)
  -- the input buffer
  · rintro a v rfl; exact hstep
  -- writes of unit buffers
  · rintro hk rfl; exact hstep.trans (writeBuffer_fits hk rfl _)
  · rintro hk h0 h1 rfl; exact hstep.trans (writeBuffer_fits hk ((bufferFits_dq v).2 ⟨h0, h1⟩) _)
  · rintro hk rfl; exact hstep.trans (writeBuffer_fits hk rfl _)
  · subst hop; exact hstep.trans (writeBuffer_qt ht hk ⟨h0, h1⟩ _)
  · rintro hk hv rfl; exact hstep.trans (writeBuffer_fits hk ((bufferFits_qtDef v).2 hv) _)
  · rintro hk hv rfl; exact hstep.trans (writeBuffer_fits hk ((bufferFits_qtPrec v).2 hv) _)
  · subst hop; exact hstep.trans (writeBuffer_outside hrow h _)
  -- reads of unit buffers and of `OUT`
  · subst hop
    exact hstep.trans (readBuffer_some ((bufferValue_content s hrow k).trans hv))
  · subst hop
    exact hstep.trans (readBuffer_none ((bufferValue_content s hrow k).trans (List.getElem?_eq_none hk)))
  · subst hop
    exact hstep.trans (readBuffer_some ((bufferValue_qt s t hk).trans (by rw [hq]; rfl)))
  · subst hop
    exact hstep.trans (readBuffer_none ((bufferValue_qt s t hk).trans (by rw [List.getElem?_eq_none hlen]; rfl)))
  · subst hop; exact hstep.trans (readOutput_some hb)
  · subst hop; exact hstep.trans (readOutput_none hk)

end Sys2Proof.Machine

/-! SUPPORT. The frame of the core's own work (20_memory.md R70, R71, R86; 10_state.md R31, R53, R57; 60_exceptions.md
R405, R416): what belongs to the host and `T_USER` stay as they were, and the memories stay in canonical form. -/

namespace Sys2Proof.Machine

variable {s u v : State} {P Q : State → Prop}

/-- The core, starting from `s`, may have reached `u`. It says nothing of the registers beside those of the host,
`T_USER`, `WIN` and `PLANE`: a write of any other register leaves it as it is, by definition. -/
def State.Frame (s u : State) : Prop := s.KeepsHost u ∧ u.tUser = s.tUser ∧ (s.Canonical → u.Canonical)

theorem State.Frame.refl (s : State) : s.Frame s := ⟨⟨rfl, rfl, rfl, rfl, rfl, rfl, rfl, rfl⟩, rfl, id⟩

theorem State.Frame.canonical (h : s.Frame u) : s.Canonical → u.Canonical := h.2.2

/-- The window and the planes written, each from what it was or anew. -/
theorem State.Frame.withMemories {w : Memory} {p : List Memory} (h : s.Frame u)
    (hw : Memory.wf u.win = true → Memory.wf w = true)
    (hp : (∀ m ∈ u.plane, Memory.wf m = true) → ∀ m ∈ p, Memory.wf m = true) :
    s.Frame { u with win := w, plane := p } := by
  obtain ⟨hhost, huser, hcanonical⟩ := h
  refine ⟨hhost, huser, fun hs => ?_⟩
  obtain ⟨hinput, hwin, hplane⟩ := hcanonical hs
  exact ⟨hinput, hw hwin, hp hplane⟩

theorem State.Frame.trans (h : s.Frame u) (h' : u.Frame v) : s.Frame v := by
  obtain ⟨⟨hcmd, harg0, harg1, hbase, hlen, hinput, hhost, hread⟩, huser, hcanonical⟩ := h
  obtain ⟨⟨hcmd', harg0', harg1', hbase', hlen', hinput', hhost', hread'⟩, huser', hcanonical'⟩ := h'
  exact ⟨⟨hcmd'.trans hcmd, harg0'.trans harg0, harg1'.trans harg1, hbase'.trans hbase, hlen'.trans hlen,
    hinput'.trans hinput, hhost'.trans hhost, hread'.trans hread⟩, huser'.trans huser, hcanonical' ∘ hcanonical⟩

/-- What a failure draws is in canonical form (R405). -/
theorem canonical_forgetCall (hu : u.Canonical) (n : Nat) (c : Call) : (forgetCall n c u).Canonical := by
  obtain ⟨hinput, hwin, hplane⟩ := hu
  cases c with
  | plain | reader | block | quantLoad | dequant => exact ⟨hinput, hwin, hplane⟩
  | inflate | zlib | png =>
    simp only [State.Canonical, forgetCall, forgetPng, forgetZlib, forgetInflate, forgetBr]
    exact ⟨hinput, Memory.wf_ofFn _ _, hplane⟩
  | jpeg bad =>
    simp only [State.Canonical, forgetCall, forgetJpeg, forgetZlib, forgetInflate, forgetBr]
    refine ⟨hinput, Memory.wf_ofFn _ _, fun m hm => ?_⟩
    obtain ⟨c, _, rfl⟩ := List.mem_map.1 hm
    exact Memory.wf_ofFn _ _

/-- A failure reaches nothing of the host's, nor `T_USER` (R405). -/
theorem State.Frame.failCall (h : s.Frame u) (k : FailKind) : s.Frame (failCall k u) := by
  obtain ⟨hhost, -, -⟩ := State.Frame.refl u
  obtain ⟨-, -, -, -, hkept, -, -, -, huser⟩ := failedFrom_failCall (k := k) hhost rfl rfl rfl rfl
  exact h.trans ⟨hkept, huser, fun hu => canonical_forgetCall hu u.draws (u.running.getD .plain)⟩

/-! What an outcome, a result or a fetch answers. -/

/-- Every next state of the outcome meets `P`. -/
def Answers (P : State → Prop) : Out → Prop
  | .next t => P t
  | .fault _ => True
  | .refused _ => True

/-- The operation leaves a state that meets `P`, or fails at one. -/
def Res.Leaves {α : Type} (P : State → Prop) : Res α → Prop
  | .ok _ u => P u
  | .fail _ u => P u

/-- The fetch leaves a state that meets `P`, or fails at one. -/
def Fetched.Leaves (P : State → Prop) : Fetched → Prop
  | .element _ _ u => P u
  | .fail _ u => P u
  | .refuse _ => True

theorem Answers.of_next {o : Out} {t : State} (h : Answers P o) (ho : o = .next t) : P t := by
  subst ho
  exact h

theorem answers_of_next {o : Out} (h : ∀ t, o = .next t → P t) : Answers P o := by
  cases o with
  | next t => exact h t rfl
  | fault | refused => trivial

theorem Answers.imp {o : Out} (h : Answers P o) (hPQ : ∀ t, P t → Q t) : Answers Q o :=
  answers_of_next fun _ ho => hPQ _ (h.of_next ho)

theorem answers_ite {c : Prop} [Decidable c] {a b : Out} (ha : Answers P a) (hb : Answers P b) :
    Answers P (if c then a else b) := by
  split
  · exact ha
  · exact hb

theorem answers_whenIdle {k : Out} (h : Answers P k) : Answers P (whenIdle u k) :=
  answers_of_next fun _ ho => h.of_next (whenIdle_next ho).2

theorem answers_whenBrLive {k : Out} (h : Answers P k) : Answers P (whenBrLive u k) :=
  answers_of_next fun _ ho => h.of_next (whenBrLive_next ho).2

theorem answers_whenBitCount {k : Out} (h : Answers P k) : Answers P (whenBitCount u k) :=
  answers_of_next fun _ ho => h.of_next (whenBitCount_next ho).2

theorem framed_raise {k : FailKind} (h : s.Frame u) : Answers s.Frame (raise k u) := h.failCall k

theorem framed_unlessFail {checks : List (Bool × FailKind)} {k : Out} (hu : s.Frame u) (h : Answers s.Frame k) :
    Answers s.Frame (unlessFail checks u k) := by
  refine answers_of_next fun t ho => ?_
  obtain ⟨-, ht⟩ | ⟨kind, -, rfl⟩ := unlessFail_next ho
  · exact h.of_next ht
  · exact hu.failCall kind

theorem Res.Leaves.run {α : Type} {x : Res α} {f : α → State → Out} (hx : x.Leaves s.Frame)
    (hf : ∀ a u, s.Frame u → Answers s.Frame (f a u)) : Answers s.Frame (x.run f) := by
  cases x with
  | ok a u => exact hf a u hx
  | fail k u => exact framed_raise hx

theorem Res.Leaves.bind {α β : Type} {x : Res α} {f : α → State → Res β} (hx : x.Leaves P)
    (hf : ∀ a u, P u → (f a u).Leaves P) : (x.bind f).Leaves P := by
  cases x with
  | ok a u => exact hf a u hx
  | fail k u => exact hx

theorem Res.Leaves.fetched {x : Res Nat} (hx : x.Leaves P) {f : Format} : (Fetched.ofRes f x).Leaves P := by
  cases x with
  | ok w u => exact hx
  | fail k u => exact hx

/-! The shared operations that read or load: each moves a cursor or writes a table, and no more (40_bitreader.md;
41_huffman.md R170; 45_jpeg_entropy.md R305, R307; 46_jpeg_dequant_idct.md R330, R331; 48_jpeg_decoder.md R363). -/

theorem State.Frame.alignToByte (h : s.Frame u) : s.Frame (alignToByte u) := by
  rw [alignToByte_eq]
  exact h

theorem readBits_framed {n : Nat} (h : s.Frame u) : (readBits n u).Leaves s.Frame := by
  unfold readBits
  split <;> exact h

theorem readBitsReversed_framed {n : Nat} (h : s.Frame u) : (readBitsReversed n u).Leaves s.Frame := by
  unfold readBitsReversed
  split <;> exact h

theorem readBytes_framed {n : Nat} (h : s.Frame u) : (readBytes n u).Leaves s.Frame := by
  unfold readBytes
  dsimp only
  split <;> exact h.alignToByte

theorem extraBits_framed {n : Nat} (h : s.Frame u) : (extraBits n u).Leaves s.Frame := by
  unfold extraBits
  split
  · exact h
  · exact readBits_framed h

theorem readClenFields_framed {n : Nat} (h : s.Frame u) : (readClenFields n u).Leaves s.Frame := by
  induction n generalizing u with
  | zero => exact h
  | succ n ih => exact (readBits_framed h).bind fun _ _ hv => (ih hv).bind fun _ _ hw => hw

theorem decodeSymbol_framed {t : Tree} (h : s.Frame u) : (decodeSymbol t u).Leaves s.Frame := by
  unfold decodeSymbol
  split <;> exact h

theorem receive_framed {n : Nat} (h : s.Frame u) : (receive n u).Leaves s.Frame := by
  unfold receive
  split <;> exact h

theorem jdecode_framed {t : Tree} (h : s.Frame u) : (jdecode t u).Leaves s.Frame := by
  unfold jdecode
  split <;> exact h

theorem segment_framed (h : s.Frame u) : (segment u).Leaves s.Frame := by
  unfold segment
  dsimp only
  repeat' split
  all_goals exact h

theorem loadQuant_framed {t : Nat} {wide : Bool} {entries : List Nat} (h : s.Frame u) :
    (loadQuant t wide entries u).Leaves s.Frame := by
  unfold loadQuant
  split <;> exact h

theorem loadQuantTables_framed {fuel : Nat} {payload : List Byte} (h : s.Frame u) :
    (loadQuantTables fuel payload u).Leaves s.Frame := by
  induction fuel generalizing payload u with
  | zero => exact h
  | succ fuel ih =>
    cases payload with
    | nil => exact h
    | cons b rest =>
      unfold loadQuantTables
      dsimp only
      generalize (if highNibble b == 1 then 128 else 64) = size
      split
      · exact h
      · exact (loadQuant_framed h).bind fun _ _ hv => ih hv

theorem dequantize_framed {t : Nat} (h : s.Frame u) : (dequantize t u).Leaves s.Frame := by
  unfold dequantize
  split <;> exact h

/-! INF and ZLB (42_inflate.md, 43_zlib.md). The window is the one memory they write. -/

theorem State.Frame.emit (h : s.Frame u) (b : Byte) : s.Frame (emit b u) :=
  h.withMemories (fun hw => Memory.wf_write hw _ _) id

theorem State.Frame.emitAll (h : s.Frame u) (bytes : List Byte) : s.Frame (emitAll bytes u) := by
  obtain ⟨o, w, i, e, hw⟩ := emitAll_frame bytes u
  rw [e]
  exact h.withMemories hw id

theorem State.Frame.copyBack (h : s.Frame u) (d n : Nat) : s.Frame (copyBack d n u) := by
  obtain ⟨o, w, i, e, hw⟩ := copyBack_frame d n u
  rw [e]
  exact h.withMemories hw id

theorem framed_finishBlock (h : s.Frame u) : Answers s.Frame (finishBlock u) := by
  have hsum : s.Frame (sumAdler u) := h
  refine answers_of_next fun t ho => ?_
  -- a block header follows; or INF ends; or ZLB ends or fails; or PNG fails one of two ways or goes on to its rows
  obtain ⟨-, rfl⟩ | ⟨-, ⟨-, rfl⟩ | ⟨-, rfl | rfl⟩ | ⟨-, rfl | rfl | rfl⟩⟩ := finishBlock_next ho
  · exact h
  · exact h
  · exact h
  · exact hsum.failCall _
  · exact hsum.failCall _
  · exact State.Frame.failCall (u := { sumAdler u with raw := u.out, out := [] }) h _
  · exact h

theorem framed_execStoredLenNlen {len nlen : Half} (h : s.Frame u) :
    Answers s.Frame (execStoredLenNlen len nlen u) :=
  answers_ite (Res.Leaves.run (readBytes_framed h) fun bytes _ hv => framed_finishBlock (hv.emitAll bytes))
    (framed_raise h)

theorem framed_execDynCounts {hlit hdist : BitVec 5} {hclen : BitVec 4} (h : s.Frame u) :
    Answers s.Frame (execDynCounts hlit hdist hclen u) :=
  Res.Leaves.run (readClenFields_framed h) fun _ _ hv => answers_ite hv trivial

theorem framed_lengthsDone (h : s.Frame u) : Answers s.Frame (lengthsDone u) :=
  answers_ite h (answers_ite h trivial)

theorem framed_appendLengths {v r : Nat} (h : s.Frame u) : Answers s.Frame (appendLengths v r u) :=
  answers_ite (framed_raise h) (framed_lengthsDone h)

theorem framed_execClRep (h : s.Frame u) : Answers s.Frame (execClRep u) := by
  unfold execClRep
  split
  · exact framed_raise h
  · exact (readBits_framed h).run fun _ _ hv => framed_appendLengths hv

theorem framed_matchLength {i : Nat} (h : s.Frame u) : Answers s.Frame (matchLength i u) :=
  (extraBits_framed h).run fun _ _ hv => hv

theorem framed_matchDistance {d : Nat} (h : s.Frame u) : Answers s.Frame (matchDistance d u) :=
  (extraBits_framed h).run fun _ _ hv => answers_ite (framed_raise hv) (hv.copyBack _ _)

/-- The length codes share one meaning, by their place in the table (R213, R216). -/
theorem exec_lengthInstrs {k : Nat} {i : Instr} (h : lengthInstrs[k]? = some i) (s : State) :
    exec i s = matchLength k s := by
  have htable : lengthInstrs.map (exec · s) = (List.range 29).map (matchLength · s) := rfl
  obtain ⟨hk, -⟩ := List.getElem?_eq_some_iff.1 h
  have hrow := congrArg (·[k]?) htable
  simp only [List.getElem?_map, h, List.getElem?_range (n := 29) hk, Option.map_some] at hrow
  exact Option.some.inj hrow

/-- The distance codes share one meaning, by their place in the table (R217). -/
theorem exec_distInstrs {k : Nat} {i : Instr} (h : distInstrs[k]? = some i) (s : State) :
    exec i s = matchDistance k s := by
  have htable : distInstrs.map (exec · s) = (List.range 30).map (matchDistance · s) := rfl
  obtain ⟨hk, -⟩ := List.getElem?_eq_some_iff.1 h
  have hrow := congrArg (·[k]?) htable
  simp only [List.getElem?_map, h, List.getElem?_range (n := 30) hk, Option.map_some] at hrow
  exact Option.some.inj hrow

theorem framed_lengthCode {i : Instr} (hi : i ∈ lengthInstrs) (h : s.Frame u) : Answers s.Frame (exec i u) := by
  obtain ⟨k, hk⟩ := List.getElem?_of_mem hi
  rw [exec_lengthInstrs hk]
  exact framed_matchLength h

theorem framed_distanceCode {i : Instr} (hi : i ∈ distInstrs) (h : s.Frame u) : Answers s.Frame (exec i u) := by
  obtain ⟨k, hk⟩ := List.getElem?_of_mem hi
  rw [exec_distInstrs hk]
  exact framed_matchDistance h

theorem framed_beginZlib (h : s.Frame u) : Answers s.Frame (beginZlib u) := answers_ite (framed_raise h) h

theorem framed_execZlibHdr {cmf flg : Byte} (h : s.Frame u) : Answers s.Frame (execZlibHdr cmf flg u) := by
  unfold execZlibHdr
  dsimp only
  split
  · exact framed_raise h
  · exact h

/-! PNG (44_png.md). -/

theorem framed_checkHeader {legal : List Nat} (h : s.Frame u) : Answers s.Frame (checkHeader legal u) :=
  answers_ite (framed_raise h) <| answers_ite (framed_raise h) <| answers_ite (framed_raise h) <|
    answers_ite (framed_raise h) h

theorem framed_convertRows {ch : Nat} {f : List Byte → Option (List Byte)} (h : s.Frame u) :
    Answers s.Frame (convertRows ch f u) := by
  unfold convertRows
  split
  · exact h
  · exact framed_raise h

/-! The scan of a JPEG file (48_jpeg_decoder.md R377 to R389). The planes are the memories it writes. -/

theorem placeRows_wf (s : State) (n : Nat) {m : Memory} (hm : Memory.wf m = true) :
    Memory.wf (placeRows s n m) = true := by
  induction n generalizing m with
  | zero => exact hm
  | succ n ih => exact ih (Memory.wf_writeAll hm _ _)

/-- A plane that is not there reads as the empty memory. -/
theorem getD_plane_wf {p : List Memory} (hp : ∀ m ∈ p, Memory.wf m = true) (i : Nat) :
    Memory.wf (p.getD i []) = true := by
  rcases Nat.lt_or_ge i p.length with hi | hi
  · rw [getD_of_lt hi]
    exact hp _ (List.getElem_mem hi)
  · rw [List.getD_eq_getElem?_getD, List.getElem?_eq_none hi]
    rfl

theorem State.Frame.placeBlock (h : s.Frame u) : s.Frame (placeBlock u) := by
  refine h.withMemories id fun hp m hm => ?_
  rcases List.mem_or_eq_of_mem_set hm with hm | rfl
  · exact hp m hm
  · exact placeRows_wf u 8 (getD_plane_wf hp _)

theorem State.Frame.nextBlock (h : s.Frame u) : s.Frame (nextBlock u) := by
  obtain ⟨jd, jc, co, jb, p, e, -⟩ := nextBlock_frame u
  rw [e]
  exact h

theorem State.Frame.beginScan (h : s.Frame u) : s.Frame (beginScan u) := by
  rw [beginScan_eq]
  exact h

theorem framed_blockDone (h : s.Frame u) : Answers s.Frame (blockDone u) := by
  unfold blockDone
  split
  · exact h
  · exact (dequantize_framed h).run fun _ v hv => (State.Frame.placeBlock (u := transform v) hv).nextBlock
  · trivial

theorem framed_acLoop (h : s.Frame u) : Answers s.Frame (acLoop u) := answers_ite h (framed_blockDone h)

/-! JDEC and JCOEF (48_jpeg_decoder.md, 45_jpeg_entropy.md). -/

theorem framed_execMSof0 (h : s.Frame u) : Answers s.Frame (execMSof0 u) :=
  (segment_framed h).run fun _ _ hv => framed_unlessFail hv <| framed_unlessFail hv <| framed_unlessFail hv hv

theorem framed_execMDqt (h : s.Frame u) : Answers s.Frame (execMDqt u) :=
  (segment_framed h).run fun _ _ hv => (loadQuantTables_framed hv).run fun _ _ hw => hw

theorem framed_execMDri (h : s.Frame u) : Answers s.Frame (execMDri u) :=
  (segment_framed h).run fun _ _ hv => framed_unlessFail hv hv

theorem framed_loadHuffTables {fuel : Nat} {payload : List Byte} (h : s.Frame u) :
    Answers s.Frame (loadHuffTables fuel payload u) := by
  refine answers_of_next fun t ho => ?_
  obtain ⟨jdc, jac, jhuf, draws, rfl | ⟨k, rfl⟩⟩ := loadHuffTables_next ho
  · exact h
  · exact State.Frame.failCall (u := { u with jdc := jdc, jac := jac, jhuf := jhuf, draws := draws }) h k

theorem framed_execMDht (h : s.Frame u) : Answers s.Frame (execMDht u) :=
  (segment_framed h).run fun _ _ hv => framed_loadHuffTables hv

theorem framed_execMSos (h : s.Frame u) : Answers s.Frame (execMSos u) :=
  (segment_framed h).run fun _ _ hv => framed_unlessFail hv <| framed_unlessFail hv <| State.Frame.beginScan hv

theorem framed_execMOther (code : Byte) (h : s.Frame u) : Answers s.Frame (execMOther code u) :=
  (segment_framed h).run fun _ _ hv => hv

theorem framed_execDcCat {t : BitVec 4} (h : s.Frame u) : Answers s.Frame (execDcCat t u) :=
  (receive_framed h).run fun _ _ hv => framed_acLoop hv

theorem framed_execAcRunsize {rs : Byte} (h : s.Frame u) : Answers s.Frame (execAcRunsize rs u) :=
  answers_ite (framed_raise h) ((receive_framed h).run fun _ _ hv => framed_acLoop hv)

/-! The commands (30_encoding.md R101). -/

theorem framed_execHufDecode (h : s.Frame u) : Answers s.Frame (execHufDecode u) := by
  refine answers_whenIdle <| answers_whenBrLive ?_
  split
  · trivial
  · exact answers_ite (Res.Leaves.run (decodeSymbol_framed h) fun _ _ hv => hv) trivial

theorem State.Frame.setJpegSlot (h : s.Frame u) (n : Nat) (t : Tree) : s.Frame (setJpegSlot u n t) := by
  unfold Machine.setJpegSlot
  split <;> exact h

theorem framed_execJhufBuild (h : s.Frame u) : Answers s.Frame (execJhufBuild u) := by
  have hslot := State.Frame.setJpegSlot (u := beginCall .plain u) h
  unfold execJhufBuild
  -- the counts stay opaque: what is built from them matters to no part of the frame
  generalize inputCounts u = counts
  generalize inputSymbols u = syms
  exact answers_whenIdle <| answers_ite trivial <| answers_ite (hslot _ _) trivial

theorem framed_execJdqLoad (h : s.Frame u) : Answers s.Frame (execJdqLoad u) :=
  answers_whenIdle <| answers_ite trivial <| Res.Leaves.run (loadQuant_framed h) fun _ _ hv => hv

theorem framed_execJdqBlock (h : s.Frame u) : Answers s.Frame (execJdqBlock u) :=
  answers_whenIdle <| answers_ite trivial <| Res.Leaves.run (dequantize_framed h) fun _ _ hv => hv

/-- Every instruction but the two that write `T_USER`. -/
theorem framed_exec_of_ne {i : Instr} (hbuild : i ≠ .hufBuild) (hjpeg : i ≠ .jpegDecode) (s : State) :
    Answers s.Frame (exec i s) := by
  have h := State.Frame.refl s
  cases i with
  | hufBuild => exact absurd rfl hbuild
  | jpegDecode => exact absurd rfl hjpeg
  | brReset | hufBuildFixed | infDecompress | pngDecode | jidctBlock | jccPixel | jccGray => exact answers_whenIdle h
  | brReadbits =>
    exact answers_whenIdle <| answers_whenBrLive <| answers_whenBitCount <|
      Res.Leaves.run (readBits_framed h) fun _ _ hv => hv
  | brReadbit => exact answers_whenIdle <| answers_whenBrLive <| Res.Leaves.run (readBits_framed h) fun _ _ hv => hv
  | brReadbitsRev =>
    exact answers_whenIdle <| answers_whenBrLive <| answers_whenBitCount <|
      Res.Leaves.run (readBitsReversed_framed h) fun _ _ hv => hv
  | brAlign => exact answers_whenIdle <| answers_whenBrLive <| State.Frame.alignToByte (u := beginCall .reader s) h
  | brReadbytes => exact answers_whenIdle <| answers_whenBrLive <| Res.Leaves.run (readBytes_framed h) fun _ _ hv => hv
  | hufDecode => exact framed_execHufDecode h
  | zlbDecompress => exact answers_whenIdle (framed_beginZlib h)
  | jhufBuild => exact framed_execJhufBuild h
  | jcReset => exact answers_whenIdle (answers_ite trivial h)
  | jcBlock => exact answers_whenIdle <| answers_ite trivial <| answers_ite trivial <| answers_ite trivial h
  | jdqLoad => exact framed_execJdqLoad h
  | jdqBlock => exact framed_execJdqBlock h
  | blockStored b => exact State.Frame.alignToByte (u := latchHeader b 0#2 s) h
  | blockFixed | blockDynamic => exact h
  | storedLenNlen => exact framed_execStoredLenNlen h
  | dynCounts => exact framed_execDynCounts h
  | clLen => exact framed_lengthsDone h
  | clRep => exact framed_execClRep h
  | clZero3 | clZero11 => exact (readBits_framed h).run fun _ _ hv => framed_appendLengths hv
  | lit b => exact h.emit b
  | eob => exact framed_finishBlock h
  | len257 | len258 | len259 | len260 | len261 | len262 | len263 | len264 | len265 | len266 | len267 | len268 |
    len269 | len270 | len271 | len272 | len273 | len274 | len275 | len276 | len277 | len278 | len279 | len280 |
    len281 | len282 | len283 | len284 | len285 => exact framed_lengthCode (by decide) h
  | dist0 | dist1 | dist2 | dist3 | dist4 | dist5 | dist6 | dist7 | dist8 | dist9 | dist10 | dist11 | dist12 |
    dist13 | dist14 | dist15 | dist16 | dist17 | dist18 | dist19 | dist20 | dist21 | dist22 | dist23 | dist24 |
    dist25 | dist26 | dist27 | dist28 | dist29 => exact framed_distanceCode (by decide) h
  | fixll0to143 | fixll144to255 | fixll256to279 | fixll280to287 | fixd0to31 => exact h
  | zlibHdr => exact framed_execZlibHdr h
  | pngSignature | chunkOther => exact h
  | chunkIhdr | chunkPlte => exact answers_ite (framed_raise h) (answers_ite (framed_raise h) h)
  | chunkIdat => exact answers_ite (framed_raise h) h
  | chunkIend => exact answers_ite (framed_raise h) (framed_beginZlib h)
  | ihdrPayload => exact answers_ite (framed_raise h) h
  | ctGray | ctTruecolor | ctIndexed | ctGrayAlpha | ctTruecolorAlpha =>
    exact answers_ite (framed_convertRows h) (framed_checkHeader h)
  | filterNone | filterSub | filterUp | filterAverage | filterPaeth => exact h
  | mSoi | mEoi => exact answers_ite (framed_raise h) h
  | mSof0 => exact framed_execMSof0 h
  | blockReserved | lenInvalid | distInvalid | ctInvalid | filterInvalid | mSof1 | mSof2 | mSof3 | mSof5 | mSof6 |
    mSof7 | mSof9 | mSof10 | mSof11 | mSof13 | mSof14 | mSof15 | dcInvalid => exact framed_raise h
  | mDht => exact framed_execMDht h
  | mDqt => exact framed_execMDqt h
  | mDri => exact framed_execMDri h
  | mSos => exact framed_execMSos h
  | mRst => exact answers_ite h (framed_raise h)
  | mOther code => exact framed_execMOther code h
  | dcCat => exact framed_execDcCat h
  | acEob => exact framed_blockDone h
  | acZrl => exact framed_acLoop h
  | acRunsize => exact framed_execAcRunsize h

/-- Every instruction, from the state with `T_USER` as it leaves it: built by `HUF_BUILD` (R161), not valid after
`JPEG_DECODE` (log 12), else as it was. -/
theorem framed_exec (i : Instr) (s : State) :
    ∃ tree, (i ≠ .hufBuild → i ≠ .jpegDecode → tree = s.tUser) ∧ (i = .jpegDecode → tree = s.tUser.invalidate) ∧
      Answers { s with tUser := tree }.Frame (exec i s) := by
  by_cases hbuild : i = .hufBuild
  · subst hbuild
    refine ⟨buildTree (inputLengths s) Config.maxBits, fun h => absurd rfl h, nofun, ?_⟩
    exact answers_whenIdle <| answers_ite trivial <| answers_ite (State.Frame.refl _) trivial
  · by_cases hjpeg : i = .jpegDecode
    · subst hjpeg
      exact ⟨_, fun _ h => absurd rfl h, fun _ => rfl, answers_whenIdle (State.Frame.refl _)⟩
    · exact ⟨_, fun _ _ => rfl, fun h => absurd h hjpeg, framed_exec_of_ne hbuild hjpeg s⟩

/-- Settles O11. The frame of every instruction: no failure and no success reaches the host's things, and `T_USER` is
written by two commands only. -/
theorem noInstructionTouchesTheHostsThings : Obligations.NoInstructionTouchesTheHostsThings := by
  intro i s t hexec
  obtain ⟨tree, hother, hjpeg, hframed⟩ := framed_exec i s
  obtain ⟨hhost, huser, -⟩ := hframed.of_next hexec
  exact ⟨hhost, fun hb hj => huser.trans (hother hb hj), fun hj => huser.trans (hjpeg hj)⟩

end Sys2Proof.Machine

/-! SUPPORT. Every step keeps the memories canonical: the fetch writes none (10_state.md R21), and of the host's operations
only the placing of an input byte and reset do (30_encoding.md R102; 60_exceptions.md R416, R422). -/

namespace Sys2Proof.Machine

variable {s u : State}

/-! The fetch. -/

theorem fetchSymbol_framed {f : Format} {t : Tree} (h : s.Frame u) : (fetchSymbol f t u).Leaves s.Frame := by
  unfold fetchSymbol
  split
  · exact (decodeSymbol_framed h).fetched
  · trivial

theorem fetchJpegSymbol_framed {f : Format} {t : Tree} (h : s.Frame u) : (fetchJpegSymbol f t u).Leaves s.Frame := by
  unfold fetchJpegSymbol
  split
  · exact (jdecode_framed h).fetched
  · trivial

theorem fixedLitCode_framed (h : s.Frame u) : (fixedLitCode u).Leaves s.Frame := by
  unfold fixedLitCode
  split
  · exact readBitsReversed_framed h
  · split <;> exact readBitsReversed_framed h

theorem fetchSignature_framed (h : s.Frame u) : (fetchSignature u).Leaves s.Frame := by
  unfold fetchSignature
  repeat' split
  all_goals exact h

theorem fetchChunk_framed (h : s.Frame u) : (fetchChunk u).Leaves s.Frame := by
  unfold fetchChunk
  dsimp only
  repeat' split
  all_goals exact h

theorem fetchSoi_framed (h : s.Frame u) : (fetchSoi u).Leaves s.Frame := by
  unfold fetchSoi
  repeat' split
  all_goals exact h

theorem fetchMarker_framed (h : s.Frame u) : (fetchMarker u).Leaves s.Frame := by
  unfold fetchMarker
  dsimp only
  repeat' split
  all_goals exact h

theorem fetchRestart_framed (h : s.Frame u) : (fetchRestart u).Leaves s.Frame := by
  unfold fetchRestart
  dsimp only
  repeat' split
  all_goals exact h

theorem fetch_framed (s : State) : (fetch s).Leaves s.Frame := by
  have h := State.Frame.refl s
  unfold fetch
  cases s.point with
  | idle | litlenSym | distSym | zlibHdr | pngIhdr | pngCheck | pngRow | pngConvert => exact h
  | blockHdr | stored | dynHdr => exact (readBits_framed h).fetched
  | clen => exact fetchSymbol_framed h
  | litlenCode =>
    dsimp only
    split
    · exact (fixedLitCode_framed h).fetched
    · exact fetchSymbol_framed h
  | distCode =>
    dsimp only
    split
    · exact (readBitsReversed_framed h).fetched
    · exact fetchSymbol_framed h
  | pngSignature => exact fetchSignature_framed h
  | pngChunk => exact fetchChunk_framed h
  | jpegSoi => exact fetchSoi_framed h
  | jpegMarker => exact fetchMarker_framed h
  | jpegRestart => exact fetchRestart_framed h
  | jpegDc | jpegAc => exact fetchJpegSymbol_framed h

/-! The step. -/

theorem canonical_exec (i : Instr) (hu : u.Canonical) : Answers State.Canonical (exec i u) := by
  obtain ⟨tree, -, -, h⟩ := framed_exec i u
  exact h.imp fun _ ht => ht.canonical hu

/-- Inside a call: what the fetch leaves is run, or the failure of the fetch taken. -/
theorem canonical_runFetched {x : Fetched} (hs : s.Canonical) (hx : x.Leaves s.Frame) :
    Answers State.Canonical (runFetched x) := by
  cases x with
  | element f w u =>
    show Answers State.Canonical (runElement f w u)
    unfold runElement
    split
    · exact canonical_exec _ (State.Frame.canonical hx hs)
    · trivial
  | fail k u => exact (State.Frame.failCall hx k).canonical hs
  | refuse r => trivial

theorem canonical_writeRegister {no : Nat} {w : Word} (hu : u.Canonical) :
    Answers State.Canonical (writeRegister no w u) := by
  refine answers_ite ?_ <| answers_ite hu <| answers_ite hu <| answers_ite hu <| answers_ite hu <|
    answers_ite trivial trivial
  unfold writeCommand
  split
  · exact canonical_exec _ hu
  · trivial

theorem canonical_setBuffer {buf : HostBuf} {i : Nat} {e : Int} (hu : u.Canonical) : (setBuffer buf i e u).Canonical := by
  cases buf <;> exact hu

/-- At rest: only the placing of an input byte and reset write a memory. -/
theorem canonical_runHostOp {op : HostOp} (hu : u.Canonical) : Answers State.Canonical (runHostOp op u) := by
  have ⟨hinput, hwin, hplane⟩ := hu
  cases op with
  | writeReg no w => exact canonical_writeRegister hu
  | readReg no =>
    show Answers State.Canonical (readRegister no u)
    unfold readRegister
    split
    · exact hu
    · trivial
  | writeInput i b => exact ⟨Memory.wf_write hinput _ _, hwin, hplane⟩
  | readBuf buf i =>
    show Answers State.Canonical (readBuffer buf i u)
    unfold readBuffer
    split
    · exact hu
    · trivial
  | writeBuf buf i e => exact answers_ite (canonical_setBuffer hu) trivial
  | readOut i =>
    show Answers State.Canonical (readOutput i u)
    unfold readOutput
    split
    · exact hu
    · trivial
  | reset => exact ⟨hinput, rfl, fun m hm => List.eq_of_mem_replicate hm ▸ rfl⟩

theorem canonical_step (hs : s.Canonical) : Answers State.Canonical (step s) := by
  by_cases hp : s.point = .idle
  · cases hh : s.host with
    | nil =>
      rw [step_of_no_host hp hh]
      exact hs
    | cons op rest =>
      rw [step_of_host hp hh]
      exact canonical_runHostOp hs
  · rw [step_in_call hp]
    exact canonical_runFetched hs (fetch_framed s)

/-- Settles O3. Every write of a memory, and whatever a failure or reset puts there, is in canonical form. -/
theorem stepKeepsMemoryCanonical : Obligations.StepKeepsMemoryCanonical :=
  fun _ _ hs hstep => (canonical_step hs).of_next hstep

end Sys2Proof.Machine

/-! SUPPORT. Encoding and decoding (30_encoding.md R100 to R120): the decoder undoes the encoder on every well-formed
instruction, and the encoder the decoder on every number. -/

namespace Sys2Proof

variable {f : Format} {w n : Nat} {i : Instr}

/-! The number of each row with operands (R101, R104 to R116). -/

section
variable (b : Bool) (v code : Byte) (len nlen : Half) (hlit hdist dsym : BitVec 5) (hclen cl : BitVec 4) (sym : BitVec 9)
  (ty width height : Word)

@[simp] theorem encode_blockStored : encode (.blockStored b) = 0 + b.toNat := rfl
@[simp] theorem encode_blockFixed : encode (.blockFixed b) = 2 + b.toNat := rfl
@[simp] theorem encode_blockDynamic : encode (.blockDynamic b) = 4 + b.toNat := rfl
@[simp] theorem encode_blockReserved : encode (.blockReserved b) = 6 + b.toNat := rfl
@[simp] theorem encode_storedLenNlen : encode (.storedLenNlen len nlen) = len.toNat + nlen.toNat * 2 ^ 16 := rfl
@[simp] theorem encode_dynCounts :
    encode (.dynCounts hlit hdist hclen) = hlit.toNat + hdist.toNat * 2 ^ 5 + hclen.toNat * 2 ^ 10 := rfl
@[simp] theorem encode_clLen : encode (.clLen cl) = cl.toNat := rfl
@[simp] theorem encode_lit : encode (.lit v) = v.toNat := rfl
@[simp] theorem encode_fixll0to143 : encode (.fixll0to143 sym) = 0x30 + sym.toNat := rfl
@[simp] theorem encode_fixll144to255 : encode (.fixll144to255 sym) = 0x190 + (sym.toNat - 144) := rfl
@[simp] theorem encode_fixll256to279 : encode (.fixll256to279 sym) = sym.toNat - 256 := rfl
@[simp] theorem encode_fixll280to287 : encode (.fixll280to287 sym) = 0xC0 + (sym.toNat - 280) := rfl
@[simp] theorem encode_fixd0to31 : encode (.fixd0to31 dsym) = dsym.toNat := rfl
@[simp] theorem encode_zlibHdr (cmf flg : Byte) : encode (.zlibHdr cmf flg) = cmf.toNat * 256 + flg.toNat := rfl
@[simp] theorem encode_chunkOther : encode (.chunkOther ty) = ty.toNat := rfl
@[simp] theorem encode_ihdrPayload (depth color compression filter interlace : Byte) :
    encode (.ihdrPayload width height depth color compression filter interlace) =
      width.toNat * 2 ^ 72 + height.toNat * 2 ^ 40 + depth.toNat * 2 ^ 32 + color.toNat * 2 ^ 24 +
        compression.toNat * 2 ^ 16 + filter.toNat * 2 ^ 8 + interlace.toNat := rfl
@[simp] theorem encode_ctInvalid : encode (.ctInvalid v) = v.toNat := rfl
@[simp] theorem encode_filterInvalid : encode (.filterInvalid v) = v.toNat := rfl
@[simp] theorem encode_mRst (r : BitVec 3) : encode (.mRst r) = 0xFFD0 + r.toNat := rfl
@[simp] theorem encode_mOther : encode (.mOther code) = 0xFF00 + code.toNat := rfl
@[simp] theorem encode_dcCat : encode (.dcCat cl) = cl.toNat := rfl
@[simp] theorem encode_dcInvalid : encode (.dcInvalid v) = v.toNat := rfl
@[simp] theorem encode_acRunsize : encode (.acRunsize v) = v.toNat := rfl

end

/-! Which operands are well formed: those of the rows that cover a range or what no other row takes (R120). -/

section
variable {v : Byte} {sym : BitVec 9} {t : BitVec 4} {ty : Word}

theorem fixll0to143_wellFormed_iff : (Instr.fixll0to143 sym).wellFormed = true ↔ sym.toNat ≤ 143 := by
  simp [Instr.wellFormed]

theorem fixll144to255_wellFormed_iff :
    (Instr.fixll144to255 sym).wellFormed = true ↔ 144 ≤ sym.toNat ∧ sym.toNat ≤ 255 := by
  simp [Instr.wellFormed]

theorem fixll256to279_wellFormed_iff :
    (Instr.fixll256to279 sym).wellFormed = true ↔ 256 ≤ sym.toNat ∧ sym.toNat ≤ 279 := by
  simp [Instr.wellFormed]

theorem fixll280to287_wellFormed_iff :
    (Instr.fixll280to287 sym).wellFormed = true ↔ 280 ≤ sym.toNat ∧ sym.toNat ≤ 287 := by
  simp [Instr.wellFormed]

theorem chunkOther_wellFormed_iff : (Instr.chunkOther ty).wellFormed = true ↔
    ty.toNat ≠ 0x49484452 ∧ ty.toNat ≠ 0x504C5445 ∧ ty.toNat ≠ 0x49444154 ∧ ty.toNat ≠ 0x49454E44 := by
  simp [Instr.wellFormed, isNamedChunk, BitVec.toNat_eq, and_assoc]

theorem ctInvalid_wellFormed_iff : (Instr.ctInvalid v).wellFormed = true ↔
    v.toNat ≠ 0 ∧ v.toNat ≠ 2 ∧ v.toNat ≠ 3 ∧ v.toNat ≠ 4 ∧ v.toNat ≠ 6 := by
  simp [Instr.wellFormed, isColorType, BitVec.toNat_eq, and_assoc]

theorem filterInvalid_wellFormed_iff : (Instr.filterInvalid v).wellFormed = true ↔ 5 ≤ v.toNat := by
  simp [Instr.wellFormed]

/-- `M_OTHER` has what is a marker, has no row of its own and is no `RSTn`. -/
theorem mOther_wellFormed_iff : ∀ code : Byte, (Instr.mOther code).wellFormed = true ↔
    code.toNat ≠ 0 ∧ code.toNat ≠ 0xFF ∧ markerTable.lookup code.toNat = none ∧
      ¬ (0xD0 ≤ code.toNat ∧ code.toNat ≤ 0xD7) := by
  decide +kernel

theorem dcCat_wellFormed_iff : (Instr.dcCat t).wellFormed = true ↔ t.toNat ≤ 11 := by simp [Instr.wellFormed]

theorem dcInvalid_wellFormed_iff {t : Byte} : (Instr.dcInvalid t).wellFormed = true ↔ 12 ≤ t.toNat := by
  simp [Instr.wellFormed]

theorem acRunsize_wellFormed_iff : (Instr.acRunsize v).wellFormed = true ↔ v.toNat ≠ 0x00 ∧ v.toNat ≠ 0xF0 := by
  simp [Instr.wellFormed, BitVec.toNat_eq]

end

/-! From the instruction to its number and back: one lemma a row with operands that the decoder takes out of a number or
tells from other rows of its format. -/

/-- An operand is read back from any number that has it in its low bits. -/
theorem ofNat_eq_of_mod {x : BitVec n} (h : w % 2 ^ n = x.toNat) : BitVec.ofNat n w = x :=
  BitVec.eq_of_toNat_eq (by rwa [BitVec.toNat_ofNat])

theorem decode_encode_storedLenNlen (len nlen : Half) :
    decode .stored (encode (.storedLenNlen len nlen)) = .ok (.storedLenNlen len nlen) := by
  have h1 := len.isLt
  have h2 := nlen.isLt
  rw [decode, decodeStored, encode_storedLenNlen, if_neg (by omega), ofNat_eq_of_mod (x := len) (by omega),
    ofNat_eq_of_mod (x := nlen) (by omega)]

theorem decode_encode_dynCounts (hlit hdist : BitVec 5) (hclen : BitVec 4) :
    decode .dynHdr (encode (.dynCounts hlit hdist hclen)) = .ok (.dynCounts hlit hdist hclen) := by
  have h1 := hlit.isLt
  have h2 := hdist.isLt
  have h3 := hclen.isLt
  rw [decode, decodeDynHdr, encode_dynCounts, if_neg (by omega), ofNat_eq_of_mod (x := hlit) (by omega),
    ofNat_eq_of_mod (x := hdist) (by omega), ofNat_eq_of_mod (x := hclen) (by omega)]

theorem decode_encode_clLen (v : BitVec 4) : decode .clen (encode (.clLen v)) = .ok (.clLen v) := by
  rw [decode, decodeClen, encode_clLen, if_pos v.isLt, BitVec.ofNat_toNat, BitVec.setWidth_eq]

theorem decode_encode_lit (v : Byte) : decode .litlen (encode (.lit v)) = .ok (.lit v) := by
  rw [decode, decodeLitlen, encode_lit, if_pos v.isLt, BitVec.ofNat_toNat, BitVec.setWidth_eq]

/-! The four ranges of the fixed codes (R110). -/

theorem decode_encode_fixll0to143 {sym : BitVec 9} (h : (Instr.fixll0to143 sym).wellFormed = true) :
    decode .fixedLL (encode (.fixll0to143 sym)) = .ok (.fixll0to143 sym) := by
  have hr := fixll0to143_wellFormed_iff.1 h
  rw [decode, decodeFixedLL, encode_fixll0to143, if_neg (by omega), if_pos (by omega), ofNat_eq_of_mod (x := sym) (by omega)]

theorem decode_encode_fixll144to255 {sym : BitVec 9} (h : (Instr.fixll144to255 sym).wellFormed = true) :
    decode .fixedLL (encode (.fixll144to255 sym)) = .ok (.fixll144to255 sym) := by
  have hr := fixll144to255_wellFormed_iff.1 h
  rw [decode, decodeFixedLL, encode_fixll144to255, if_neg (by omega), if_neg (by omega), if_neg (by omega),
    if_pos (by omega), ofNat_eq_of_mod (x := sym) (by omega)]

theorem decode_encode_fixll256to279 {sym : BitVec 9} (h : (Instr.fixll256to279 sym).wellFormed = true) :
    decode .fixedLL (encode (.fixll256to279 sym)) = .ok (.fixll256to279 sym) := by
  have hr := fixll256to279_wellFormed_iff.1 h
  rw [decode, decodeFixedLL, encode_fixll256to279, if_pos (by omega), ofNat_eq_of_mod (x := sym) (by omega)]

theorem decode_encode_fixll280to287 {sym : BitVec 9} (h : (Instr.fixll280to287 sym).wellFormed = true) :
    decode .fixedLL (encode (.fixll280to287 sym)) = .ok (.fixll280to287 sym) := by
  have hr := fixll280to287_wellFormed_iff.1 h
  rw [decode, decodeFixedLL, encode_fixll280to287, if_neg (by omega), if_neg (by omega), if_pos (by omega),
    ofNat_eq_of_mod (x := sym) (by omega)]

theorem decode_encode_fixd0to31 (sym : BitVec 5) : decode .fixedD (encode (.fixd0to31 sym)) = .ok (.fixd0to31 sym) := by
  rw [decode, decodeFixedD, encode_fixd0to31, if_pos sym.isLt, BitVec.ofNat_toNat, BitVec.setWidth_eq]

/-! The containers (R112, R113). -/

theorem decode_encode_zlibHdr (cmf flg : Byte) : decode .zlib (encode (.zlibHdr cmf flg)) = .ok (.zlibHdr cmf flg) := by
  have h1 := cmf.isLt
  have h2 := flg.isLt
  rw [decode, decodeZlib, encode_zlibHdr, if_neg (by omega), ofNat_eq_of_mod (x := cmf) (by omega),
    ofNat_eq_of_mod (x := flg) (by omega)]

theorem decode_encode_ihdrPayload (width height : Word) (depth color compression filter interlace : Byte) :
    decode .pngIhdr (encode (.ihdrPayload width height depth color compression filter interlace)) =
      .ok (.ihdrPayload width height depth color compression filter interlace) := by
  have h1 := width.isLt
  have h2 := height.isLt
  have h3 := depth.isLt
  have h4 := color.isLt
  have h5 := compression.isLt
  have h6 := filter.isLt
  have h7 := interlace.isLt
  rw [decode, decodePngIhdr, encode_ihdrPayload, if_neg (by omega), ofNat_eq_of_mod (x := width) (by omega),
    ofNat_eq_of_mod (x := height) (by omega), ofNat_eq_of_mod (x := depth) (by omega),
    ofNat_eq_of_mod (x := color) (by omega), ofNat_eq_of_mod (x := compression) (by omega),
    ofNat_eq_of_mod (x := filter) (by omega), ofNat_eq_of_mod (x := interlace) (by omega)]

theorem decode_encode_chunkOther {ty : Word} (h : (Instr.chunkOther ty).wellFormed = true) :
    decode .pngChunk (encode (.chunkOther ty)) = .ok (.chunkOther ty) := by
  have hlt := ty.isLt
  obtain ⟨hihdr, hplte, hidat, hiend⟩ := chunkOther_wellFormed_iff.1 h
  rw [decode, decodePngChunk, encode_chunkOther, if_neg (by omega), if_neg hihdr, if_neg hplte, if_neg hidat, if_neg hiend,
    BitVec.ofNat_toNat, BitVec.setWidth_eq]

theorem decode_encode_ctInvalid {v : Byte} (h : (Instr.ctInvalid v).wellFormed = true) :
    decode .pngColor (encode (.ctInvalid v)) = .ok (.ctInvalid v) := by
  obtain ⟨h0, h2, h3, h4, h6⟩ := ctInvalid_wellFormed_iff.1 h
  rw [decode, decodePngColor, encode_ctInvalid, if_neg (Nat.not_le.2 v.isLt), if_neg h0, if_neg h2, if_neg h3, if_neg h4,
    if_neg h6, BitVec.ofNat_toNat, BitVec.setWidth_eq]

theorem decode_encode_filterInvalid {v : Byte} (h : (Instr.filterInvalid v).wellFormed = true) :
    decode .pngFilter (encode (.filterInvalid v)) = .ok (.filterInvalid v) := by
  have hr := filterInvalid_wellFormed_iff.1 h
  rw [decode, decodePngFilter, encode_filterInvalid, if_neg (Nat.not_le.2 v.isLt), if_neg (by omega),
    if_neg (by omega), if_neg (by omega), if_neg (by omega), if_neg (by omega), BitVec.ofNat_toNat, BitVec.setWidth_eq]

/-! JPEG (R114, R116). -/

theorem decode_encode_mRst (r : BitVec 3) : decode .jpegMarker (encode (.mRst r)) = .ok (.mRst r) := by
  have htable : ∀ k : Fin 8, markerTable.lookup (0xD0 + k.val) = none := by decide
  have hlt := r.isLt
  rw [decode, decodeJpegMarker, encode_mRst, if_neg (by omega), show 0xFFD0 + r.toNat - 0xFF00 = 0xD0 + r.toNat by omega,
    htable ⟨r.toNat, hlt⟩]
  dsimp only
  rw [if_pos (by omega), Nat.add_sub_cancel_left, BitVec.ofNat_toNat, BitVec.setWidth_eq]

theorem decode_encode_mOther {code : Byte} (h : (Instr.mOther code).wellFormed = true) :
    decode .jpegMarker (encode (.mOther code)) = .ok (.mOther code) := by
  obtain ⟨h00, hff, htable, hrst⟩ := (mOther_wellFormed_iff code).1 h
  have hlt := code.isLt
  rw [decode, decodeJpegMarker, encode_mOther, if_neg (by omega), Nat.add_sub_cancel_left, htable]
  dsimp only
  rw [if_neg (by omega), BitVec.ofNat_toNat, BitVec.setWidth_eq]

theorem decode_encode_dcCat {t : BitVec 4} (h : (Instr.dcCat t).wellFormed = true) :
    decode .jpegDc (encode (.dcCat t)) = .ok (.dcCat t) := by
  have hr := dcCat_wellFormed_iff.1 h
  rw [decode, decodeJpegDc, encode_dcCat, if_neg (by omega), if_pos hr, BitVec.ofNat_toNat, BitVec.setWidth_eq]

theorem decode_encode_dcInvalid {t : Byte} (h : (Instr.dcInvalid t).wellFormed = true) :
    decode .jpegDc (encode (.dcInvalid t)) = .ok (.dcInvalid t) := by
  have hr := dcInvalid_wellFormed_iff.1 h
  rw [decode, decodeJpegDc, encode_dcInvalid, if_neg (Nat.not_le.2 t.isLt), if_neg (by omega), BitVec.ofNat_toNat,
    BitVec.setWidth_eq]

theorem decode_encode_acRunsize {rs : Byte} (h : (Instr.acRunsize rs).wellFormed = true) :
    decode .jpegAc (encode (.acRunsize rs)) = .ok (.acRunsize rs) := by
  obtain ⟨heob, hzrl⟩ := acRunsize_wellFormed_iff.1 h
  rw [decode, decodeJpegAc, encode_acRunsize, if_neg (Nat.not_le.2 rs.isLt), if_neg heob, if_neg hzrl,
    BitVec.ofNat_toNat, BitVec.setWidth_eq]

/-- Settles O15, row by row: an operand of a few values by those values, a wider one by the lemma of its row. -/
theorem decodeOfEncodeIsTheInstruction : Obligations.DecodeOfEncodeIsTheInstruction := by
  intro i h
  cases i with
  | blockStored b | blockFixed b | blockDynamic b | blockReserved b | lenInvalid b | distInvalid b => cases b <;> rfl
  | mRst r => exact decode_encode_mRst r
  | storedLenNlen len nlen => exact decode_encode_storedLenNlen len nlen
  | dynCounts hlit hdist hclen => exact decode_encode_dynCounts hlit hdist hclen
  | clLen v => exact decode_encode_clLen v
  | lit v => exact decode_encode_lit v
  | fixll0to143 sym => exact decode_encode_fixll0to143 h
  | fixll144to255 sym => exact decode_encode_fixll144to255 h
  | fixll256to279 sym => exact decode_encode_fixll256to279 h
  | fixll280to287 sym => exact decode_encode_fixll280to287 h
  | fixd0to31 sym => exact decode_encode_fixd0to31 sym
  | zlibHdr cmf flg => exact decode_encode_zlibHdr cmf flg
  | chunkOther ty => exact decode_encode_chunkOther h
  | ihdrPayload width height depth color compression filter interlace =>
    exact decode_encode_ihdrPayload width height depth color compression filter interlace
  | ctInvalid v => exact decode_encode_ctInvalid h
  | filterInvalid v => exact decode_encode_filterInvalid h
  | mOther code => exact decode_encode_mOther h
  | dcCat t => exact decode_encode_dcCat h
  | dcInvalid t => exact decode_encode_dcInvalid h
  | acRunsize rs => exact decode_encode_acRunsize h
  | _ => rfl -- the rows without operands: the decoder meets the number itself

/-! From a number to its instruction and back. -/

/-- The instruction is a well-formed one of the format, and the number is its encoding. -/
abbrev Meaning (f : Format) (w : Nat) (i : Instr) : Prop := i.wellFormed = true ∧ formatOf i = f ∧ encode i = w

/-- Whatever the decoder answers for the number is a meaning of it in the format. -/
def OnlyMeanings (f : Format) (w : Nat) : Except Reject Instr → Prop
  | .ok i => Meaning f w i
  | .error _ => True

theorem OnlyMeanings.of_ok {r : Except Reject Instr} (h : OnlyMeanings f w r) (hr : r = .ok i) : Meaning f w i := by
  subst hr
  exact h

/-- A test whose two answers are both meanings. -/
theorem onlyMeanings_ite {c : Prop} [Decidable c] {a b : Except Reject Instr} (ha : c → OnlyMeanings f w a)
    (hb : ¬ c → OnlyMeanings f w b) : OnlyMeanings f w (if c then a else b) := by
  by_cases hc : c
  · rw [if_pos hc]
    exact ha hc
  · rw [if_neg hc]
    exact hb hc

/-- A row found in a table by its number has the meaning that every row of the table has. -/
theorem meaning_of_lookup {table : List (Nat × Instr)} (h : ∀ row ∈ table, Meaning f (n + row.1) row.2)
    (hw : table.lookup w = some i) : Meaning f (n + w) i := by
  obtain ⟨l, r, hsplit, -⟩ := List.lookup_eq_some_iff.1 hw
  exact h (w, i) (by simp [hsplit])

/-- A row found in a table by its place has the meaning that every row of the table has. -/
theorem meaning_of_getElem {table : List Instr} (h : ∀ k : Fin table.length, Meaning f (n + k) table[k])
    (hw : table[w]? = some i) : Meaning f (n + w) i := by
  obtain ⟨hlt, rfl⟩ := List.getElem?_eq_some_iff.1 hw
  exact h ⟨w, hlt⟩

theorem decodeCmd_meaning (w : Nat) : OnlyMeanings .cmd w (decodeCmd w) := by
  unfold decodeCmd
  split
  · rename_i i hi
    exact w.zero_add ▸ meaning_of_lookup (n := 0) (by decide) hi
  · trivial

theorem decodeBlockHdr_meaning (w : Nat) : OnlyMeanings .blockHdr w (decodeBlockHdr w) := by
  have hfinal : (w % 2 == 1).toNat = w % 2 := by rcases Nat.mod_two_eq_zero_or_one w with h | h <;> rw [h] <;> rfl
  refine onlyMeanings_ite (fun _ => trivial) fun hwide => onlyMeanings_ite (fun h0 => ⟨rfl, rfl, ?_⟩) fun h0 =>
    onlyMeanings_ite (fun h1 => ⟨rfl, rfl, ?_⟩) fun h1 =>
    onlyMeanings_ite (fun h2 => ⟨rfl, rfl, ?_⟩) fun h2 => ⟨rfl, rfl, ?_⟩
  · rw [encode_blockStored, hfinal]
    omega
  · rw [encode_blockFixed, hfinal]
    omega
  · rw [encode_blockDynamic, hfinal]
    omega
  · rw [encode_blockReserved, hfinal]
    omega

theorem decodeStored_meaning (w : Nat) : OnlyMeanings .stored w (decodeStored w) :=
  onlyMeanings_ite (fun _ => trivial) fun hwide =>
    ⟨rfl, rfl, by simp only [encode_storedLenNlen, BitVec.toNat_ofNat]; omega⟩

theorem decodeDynHdr_meaning (w : Nat) : OnlyMeanings .dynHdr w (decodeDynHdr w) :=
  onlyMeanings_ite (fun _ => trivial) fun hwide =>
    ⟨rfl, rfl, by simp only [encode_dynCounts, BitVec.toNat_ofNat]; omega⟩

theorem decodeClen_meaning (w : Nat) : OnlyMeanings .clen w (decodeClen w) :=
  onlyMeanings_ite (fun hlen => ⟨rfl, rfl, by rw [encode_clLen, BitVec.toNat_ofNat, Nat.mod_eq_of_lt hlen]⟩) fun _ =>
    onlyMeanings_ite (fun h16 => ⟨rfl, rfl, h16.symm⟩) fun _ =>
    onlyMeanings_ite (fun h17 => ⟨rfl, rfl, h17.symm⟩) fun _ =>
    onlyMeanings_ite (fun h18 => ⟨rfl, rfl, h18.symm⟩) fun _ => trivial

theorem decodeLitlen_meaning (w : Nat) : OnlyMeanings .litlen w (decodeLitlen w) := by
  refine onlyMeanings_ite (fun hlit => ⟨rfl, rfl, by rw [encode_lit, BitVec.toNat_ofNat, Nat.mod_eq_of_lt hlit]⟩)
    fun hlit => onlyMeanings_ite (fun heob => ⟨rfl, rfl, heob.symm⟩) fun heob => ?_
  split
  · rename_i i hi
    have h := meaning_of_getElem (f := .litlen) (n := 257) (by decide) hi
    rwa [show 257 + (w - 257) = w by omega] at h
  · exact onlyMeanings_ite (fun h286 => ⟨rfl, rfl, h286.symm⟩) fun _ =>
      onlyMeanings_ite (fun h287 => ⟨rfl, rfl, h287.symm⟩) fun _ => trivial

theorem decodeDist_meaning (w : Nat) : OnlyMeanings .dist w (decodeDist w) := by
  unfold decodeDist
  split
  · rename_i i hi
    exact w.zero_add ▸ meaning_of_getElem (n := 0) (by decide) hi
  · exact onlyMeanings_ite (fun h30 => ⟨rfl, rfl, h30.symm⟩) fun _ =>
      onlyMeanings_ite (fun h31 => ⟨rfl, rfl, h31.symm⟩) fun _ => trivial

theorem decodeFixedLL_meaning (w : Nat) : OnlyMeanings .fixedLL w (decodeFixedLL w) := by
  have hsym : ∀ n < 2 ^ 9, (BitVec.ofNat 9 n).toNat = n := fun n hn => by rw [BitVec.toNat_ofNat, Nat.mod_eq_of_lt hn]
  refine onlyMeanings_ite (fun h => ?_) fun _ => onlyMeanings_ite (fun h => ?_) fun _ =>
    onlyMeanings_ite (fun h => ?_) fun _ => onlyMeanings_ite (fun h => ?_) fun _ => trivial
  · have hn := hsym (256 + w) (by omega)
    exact ⟨fixll256to279_wellFormed_iff.2 (by omega), rfl, by rw [encode_fixll256to279]; omega⟩
  · have hn := hsym (w - 0x30) (by omega)
    exact ⟨fixll0to143_wellFormed_iff.2 (by omega), rfl, by rw [encode_fixll0to143]; omega⟩
  · have hn := hsym (280 + (w - 0xC0)) (by omega)
    exact ⟨fixll280to287_wellFormed_iff.2 (by omega), rfl, by rw [encode_fixll280to287]; omega⟩
  · have hn := hsym (144 + (w - 0x190)) (by omega)
    exact ⟨fixll144to255_wellFormed_iff.2 (by omega), rfl, by rw [encode_fixll144to255]; omega⟩

theorem decodeFixedD_meaning (w : Nat) : OnlyMeanings .fixedD w (decodeFixedD w) :=
  onlyMeanings_ite (fun hsym => ⟨rfl, rfl, by rw [encode_fixd0to31, BitVec.toNat_ofNat, Nat.mod_eq_of_lt hsym]⟩)
    fun _ => trivial

theorem decodeZlib_meaning (w : Nat) : OnlyMeanings .zlib w (decodeZlib w) :=
  onlyMeanings_ite (fun _ => trivial) fun hwide =>
    ⟨rfl, rfl, by simp only [encode_zlibHdr, BitVec.toNat_ofNat]; omega⟩

theorem decodePngFile_meaning (w : Nat) : OnlyMeanings .pngFile w (decodePngFile w) :=
  onlyMeanings_ite (fun h => ⟨rfl, rfl, h.symm⟩) fun _ => trivial

theorem decodePngChunk_meaning (w : Nat) : OnlyMeanings .pngChunk w (decodePngChunk w) := by
  refine onlyMeanings_ite (fun _ => trivial) fun hwide =>
    onlyMeanings_ite (fun h => ⟨rfl, rfl, h.symm⟩) fun hihdr => onlyMeanings_ite (fun h => ⟨rfl, rfl, h.symm⟩) fun hplte =>
    onlyMeanings_ite (fun h => ⟨rfl, rfl, h.symm⟩) fun hidat => onlyMeanings_ite (fun h => ⟨rfl, rfl, h.symm⟩) fun hiend => ?_
  have hw : (BitVec.ofNat 32 w).toNat = w := by rw [BitVec.toNat_ofNat]; omega
  exact ⟨chunkOther_wellFormed_iff.2 (hw.symm ▸ ⟨hihdr, hplte, hidat, hiend⟩), rfl, hw⟩

theorem decodePngIhdr_meaning (w : Nat) : OnlyMeanings .pngIhdr w (decodePngIhdr w) :=
  onlyMeanings_ite (fun _ => trivial) fun hwide =>
    ⟨rfl, rfl, by simp only [encode_ihdrPayload, BitVec.toNat_ofNat]; omega⟩

theorem decodePngColor_meaning (w : Nat) : OnlyMeanings .pngColor w (decodePngColor w) := by
  refine onlyMeanings_ite (fun _ => trivial) fun hwide => onlyMeanings_ite (fun h => ⟨rfl, rfl, h.symm⟩) fun h0 =>
    onlyMeanings_ite (fun h => ⟨rfl, rfl, h.symm⟩) fun h2 => onlyMeanings_ite (fun h => ⟨rfl, rfl, h.symm⟩) fun h3 =>
    onlyMeanings_ite (fun h => ⟨rfl, rfl, h.symm⟩) fun h4 => onlyMeanings_ite (fun h => ⟨rfl, rfl, h.symm⟩) fun h6 => ?_
  have hw : (BitVec.ofNat 8 w).toNat = w := by rw [BitVec.toNat_ofNat]; omega
  exact ⟨ctInvalid_wellFormed_iff.2 (hw.symm ▸ ⟨h0, h2, h3, h4, h6⟩), rfl, hw⟩

theorem decodePngFilter_meaning (w : Nat) : OnlyMeanings .pngFilter w (decodePngFilter w) := by
  refine onlyMeanings_ite (fun _ => trivial) fun hwide => onlyMeanings_ite (fun h => ⟨rfl, rfl, h.symm⟩) fun h0 =>
    onlyMeanings_ite (fun h => ⟨rfl, rfl, h.symm⟩) fun h1 => onlyMeanings_ite (fun h => ⟨rfl, rfl, h.symm⟩) fun h2 =>
    onlyMeanings_ite (fun h => ⟨rfl, rfl, h.symm⟩) fun h3 => onlyMeanings_ite (fun h => ⟨rfl, rfl, h.symm⟩) fun h4 => ?_
  have hw : (BitVec.ofNat 8 w).toNat = w := by rw [BitVec.toNat_ofNat]; omega
  exact ⟨filterInvalid_wellFormed_iff.2 (by omega), rfl, hw⟩

theorem decodeJpegMarker_meaning (w : Nat) : OnlyMeanings .jpegMarker w (decodeJpegMarker w) := by
  refine onlyMeanings_ite (fun _ => trivial) fun hmarker => ?_
  have hcode : 0xFF00 + (w - 0xFF00) = w := by omega
  split
  · rename_i i hi
    have h := meaning_of_lookup (f := .jpegMarker) (n := 0xFF00) (by decide) hi
    rwa [hcode] at h
  · rename_i hnone
    refine onlyMeanings_ite (fun hrst => ⟨rfl, rfl, by simp only [encode_mRst, BitVec.toNat_ofNat]; omega⟩) fun hrst => ?_
    have hw : (BitVec.ofNat 8 (w - 0xFF00)).toNat = w - 0xFF00 := by rw [BitVec.toNat_ofNat]; omega
    exact ⟨(mOther_wellFormed_iff _).2 ⟨by omega, by omega, hw.symm ▸ hnone, by omega⟩, rfl,
      by rw [encode_mOther, hw, hcode]⟩

theorem decodeJpegDc_meaning (w : Nat) : OnlyMeanings .jpegDc w (decodeJpegDc w) := by
  refine onlyMeanings_ite (fun _ => trivial) fun hwide => onlyMeanings_ite (fun hcat => ?_) fun hcat => ?_
  · have hw : (BitVec.ofNat 4 w).toNat = w := by rw [BitVec.toNat_ofNat]; omega
    exact ⟨dcCat_wellFormed_iff.2 (by omega), rfl, hw⟩
  · have hw : (BitVec.ofNat 8 w).toNat = w := by rw [BitVec.toNat_ofNat]; omega
    exact ⟨dcInvalid_wellFormed_iff.2 (by omega), rfl, hw⟩

theorem decodeJpegAc_meaning (w : Nat) : OnlyMeanings .jpegAc w (decodeJpegAc w) := by
  refine onlyMeanings_ite (fun _ => trivial) fun hwide =>
    onlyMeanings_ite (fun h => ⟨rfl, rfl, h.symm⟩) fun heob => onlyMeanings_ite (fun h => ⟨rfl, rfl, h.symm⟩) fun hzrl => ?_
  have hw : (BitVec.ofNat 8 w).toNat = w := by rw [BitVec.toNat_ofNat]; omega
  exact ⟨acRunsize_wellFormed_iff.2 (hw.symm ▸ ⟨heob, hzrl⟩), rfl, hw⟩

theorem decode_meaning (f : Format) (w : Nat) : OnlyMeanings f w (decode f w) := by
  cases f with
  | cmd => exact decodeCmd_meaning w
  | blockHdr => exact decodeBlockHdr_meaning w
  | stored => exact decodeStored_meaning w
  | dynHdr => exact decodeDynHdr_meaning w
  | clen => exact decodeClen_meaning w
  | litlen => exact decodeLitlen_meaning w
  | dist => exact decodeDist_meaning w
  | fixedLL => exact decodeFixedLL_meaning w
  | fixedD => exact decodeFixedD_meaning w
  | zlib => exact decodeZlib_meaning w
  | pngFile => exact decodePngFile_meaning w
  | pngChunk => exact decodePngChunk_meaning w
  | pngIhdr => exact decodePngIhdr_meaning w
  | pngColor => exact decodePngColor_meaning w
  | pngFilter => exact decodePngFilter_meaning w
  | jpegMarker => exact decodeJpegMarker_meaning w
  | jpegDc => exact decodeJpegDc_meaning w
  | jpegAc => exact decodeJpegAc_meaning w

/-- Settles O16, format by format. -/
theorem decodedInstructionsAreWellFormed : Obligations.DecodedInstructionsAreWellFormed :=
  fun f w _ h => (decode_meaning f w).of_ok h

/-! Numbers that no row takes. -/

/-- A command code has 8 bits (R101). -/
theorem decode_cmd_wide (h : 256 ≤ w) : decode .cmd w = .error .illegalCommand := by
  have hbytes : ∀ row ∈ cmdTable, row.1 < 256 := by decide
  have hnone : cmdTable.lookup w = none := by
    refine List.lookup_eq_none_iff.2 fun row hrow => ?_
    have hrow := hbytes row hrow
    exact bne_iff_ne.2 (by omega)
  show decodeCmd w = _
  rw [decodeCmd, hnone]

/-- The literal/length alphabet ends at 287 (R108). -/
theorem decode_litlen_wide (h : 288 ≤ w) : decode .litlen w = .error .noSuchSymbol := by
  have hlength : lengthInstrs.length = 29 := rfl
  show decodeLitlen w = _
  rw [decodeLitlen, if_neg (by omega), if_neg (by omega), List.getElem?_eq_none (by omega)]
  dsimp only
  rw [if_neg (by omega), if_neg (by omega)]

/-- Settles O17: the words by evaluation, the two unbounded ranges by the sizes of their tables. -/
theorem encodingTableSamples : Obligations.EncodingTableSamples :=
  ⟨rfl, rfl, rfl, rfl, rfl, rfl, rfl, rfl, rfl, rfl, rfl, fun _ => decode_cmd_wide, fun _ => decode_litlen_wide,
    rfl, rfl, rfl, rfl⟩

end Sys2Proof

/-! SUPPORT. The fixed codes of a block of type 1 (30_encoding.md R110; 41_huffman.md R166, R167): how many bits the
next code has, and that these bits always are a code. -/

namespace Sys2Proof.Machine

variable {n : Nat} {s : State}

theorem readBitsReversed_of_le (h : n ≤ brUnread s) :
    readBitsReversed n s = .ok (bitsMsb s (brPos s) n) (brSeek (brPos s + n) s) :=
  if_neg (Nat.not_lt.2 h)

theorem readBitsReversed_short (h : brUnread s < n) : readBitsReversed n s = .fail .truncatedStream s := if_pos h

/-- One more bit goes in below the others (R144). -/
theorem bitsMsb_succ (s : State) (p n : Nat) : bitsMsb s p (n + 1) = 2 * bitsMsb s p n + (brBit s (p + n)).toNat := by
  induction n generalizing p with
  | zero => simp [bitsMsb]
  | succ n ih =>
    rw [bitsMsb, ih, bitsMsb, show p + 1 + n = p + (n + 1) by omega, Nat.pow_succ, ← Nat.mul_assoc]
    omega

/-- How many bits the next fixed literal/length code has, as its first bits ask (R110). -/
def fixedCodeWidth (s : State) : Nat :=
  if bitsMsb s (brPos s) 7 ≤ 0x17 then 7 else if bitsMsb s (brPos s) 8 ≤ 0xC7 then 8 else 9

/-- Where too few bits are left to tell the width, they are too few for the code as well. -/
theorem fixedLitCode_eq (s : State) : fixedLitCode s = readBitsReversed (fixedCodeWidth s) s := by
  unfold fixedLitCode fixedCodeWidth
  by_cases h7 : bitsMsb s (brPos s) 7 ≤ 0x17
  · rw [if_pos (.inr h7), if_pos h7]
  rw [if_neg h7]
  by_cases hu7 : brUnread s < 7
  · rw [if_pos (.inl hu7), readBitsReversed_short hu7, readBitsReversed_short]
    split <;> omega
  rw [if_neg (not_or.2 ⟨hu7, h7⟩)]
  by_cases h8 : bitsMsb s (brPos s) 8 ≤ 0xC7
  · rw [if_pos (.inr h8), if_pos h8]
  rw [if_neg h8]
  by_cases hu8 : brUnread s < 8
  · rw [if_pos (.inl hu8), readBitsReversed_short hu8, readBitsReversed_short (by omega)]
  · rw [if_neg (not_or.2 ⟨hu8, h8⟩)]

/-- Every number of the three ranges of R110 is a fixed code. -/
theorem decode_fixedLL_of_range {w : Nat} (h : w ≤ 0x17 ∨ (0x30 ≤ w ∧ w ≤ 0xC7) ∨ (0x190 ≤ w ∧ w ≤ 0x1FF)) :
    ∃ i, decode .fixedLL w = .ok i := by
  show ∃ i, decodeFixedLL w = .ok i
  unfold decodeFixedLL
  by_cases h7 : w ≤ 0x17
  · exact ⟨_, if_pos h7⟩
  rw [if_neg h7]
  by_cases h8 : 0x30 ≤ w ∧ w ≤ 0xBF
  · exact ⟨_, if_pos h8⟩
  rw [if_neg h8]
  by_cases hc : 0xC0 ≤ w ∧ w ≤ 0xC7
  · exact ⟨_, if_pos hc⟩
  rw [if_neg hc]
  exact ⟨_, if_pos (by omega)⟩

/-- The bits of the width asked for are a code of that width, whatever they are: the three ranges of R110 leave no gap. -/
theorem fixedCode_complete (s : State) :
    fixedLLBits (bitsMsb s (brPos s) (fixedCodeWidth s)) = fixedCodeWidth s ∧
      ∃ i, decode .fixedLL (bitsMsb s (brPos s) (fixedCodeWidth s)) = .ok i := by
  have h8 : bitsMsb s (brPos s) 8 = _ := bitsMsb_succ s (brPos s) 7
  have h9 : bitsMsb s (brPos s) 9 = _ := bitsMsb_succ s (brPos s) 8
  have hlt9 := bitsMsb_lt s (brPos s) 9
  unfold fixedCodeWidth
  by_cases hw7 : bitsMsb s (brPos s) 7 ≤ 0x17
  · rw [if_pos hw7]
    exact ⟨if_pos hw7, decode_fixedLL_of_range (.inl hw7)⟩
  rw [if_neg hw7]
  by_cases hw8 : bitsMsb s (brPos s) 8 ≤ 0xC7
  · rw [if_pos hw8]
    exact ⟨by rw [fixedLLBits, if_neg (by omega), if_pos hw8], decode_fixedLL_of_range (.inr (.inl ⟨by omega, hw8⟩))⟩
  · rw [if_neg hw8]
    exact ⟨by rw [fixedLLBits, if_neg (by omega), if_neg (by omega)],
      decode_fixedLL_of_range (.inr (.inr ⟨by omega, by omega⟩))⟩

/-- Why the bits left are too few for the code they begin. -/
theorem fixedCode_short (h : brUnread s < fixedCodeWidth s) :
    brUnread s < 7 ∨ (brUnread s < 8 ∧ 0x17 < bitsMsb s (brPos s) 7) ∨
      (brUnread s < 9 ∧ 0xC7 < bitsMsb s (brPos s) 8) := by
  unfold fixedCodeWidth at h
  split at h
  · exact .inl h
  · rename_i h7
    split at h
    · exact .inr (.inl ⟨h, Nat.not_le.1 h7⟩)
    · rename_i h8
      exact .inr (.inr ⟨h, Nat.not_le.1 h8⟩)

theorem fetch_fixedLitlen (hp : s.point = .litlenCode) (hb : s.inf.btype = 1#2) :
    fetch s = .ofRes .fixedLL (readBitsReversed (fixedCodeWidth s) s) := by
  simp only [fetch, hp, hb, if_true, fixedLitCode_eq]

theorem fetch_fixedDist (hp : s.point = .distCode) (hb : s.inf.btype = 1#2) :
    fetch s = .ofRes .fixedD (readBitsReversed 5 s) := by
  simp only [fetch, hp, hb, if_true]

/-- The four literal/length ranges share one meaning (R166, log 14). -/
theorem exec_fixedLitlen (sym : BitVec 9) (s : State) {i : Instr}
    (h : i ∈ [Instr.fixll0to143 sym, .fixll144to255 sym, .fixll256to279 sym, .fixll280to287 sym]) :
    exec i s = latchLitlen sym.toNat s := by
  simp only [List.mem_cons, List.not_mem_nil, or_false] at h
  rcases h with rfl | rfl | rfl | rfl <;> rfl

/-- Settles O38. The width that the first bits ask for is read whole, or is not there. -/
theorem fixedCodesAreTakenWhole : Obligations.FixedCodesAreTakenWhole := by
  refine ⟨fun sym s _ hi => exec_fixedLitlen sym s hi, fun _ _ => rfl, fun s hp hb => ?_,
    fun s hp hb => ⟨fun h => ?_, fun h => ?_⟩⟩
  · rw [fetch_fixedLitlen hp hb]
    rcases Nat.lt_or_ge (brUnread s) (fixedCodeWidth s) with hshort | henough
    · rw [readBitsReversed_short hshort]
      exact .inr ⟨fixedCode_short hshort, rfl⟩
    · rw [readBitsReversed_of_le henough]
      obtain ⟨hwidth, i, hi⟩ := fixedCode_complete s
      exact .inl ⟨fixedCodeWidth s, _, i, henough, rfl, hwidth.symm, rfl, hi⟩
  · rw [fetch_fixedDist hp hb, readBitsReversed_of_le h]
    rfl
  · rw [fetch_fixedDist hp hb, readBitsReversed_short h]
    rfl

end Sys2Proof.Machine

/-! SUPPORT. What the reading operations do to the two cursors (40_bitreader.md R141 to R149; 41_huffman.md R170;
45_jpeg_entropy.md R304 to R307): each moves a cursor inside its buffer and changes nothing else. -/

namespace Sys2Proof.Machine

variable {s u v w : State}

/-- A cursor of BR inside its window (R24, R149). -/
def Br.InBuffer (b : Br) : Prop := b.bytePos ≤ b.len ∧ (b.bitPos ≠ 0#3 → b.bytePos < b.len)

/-- Inside the window means that the bit position is at most the number of bits (R141). -/
theorem inBuffer_iff (s : State) : s.br.InBuffer ↔ brPos s ≤ 8 * s.br.len := by
  have hlt := s.br.bitPos.isLt
  have hzero : s.br.bitPos ≠ 0#3 ↔ s.br.bitPos.toNat ≠ 0 := not_congr BitVec.toNat_inj.symm
  rw [Br.InBuffer, hzero, brPos]
  omega

/-- `v` is `u` with its two cursors moved, each inside its buffer. -/
def State.Reads (u v : State) : Prop :=
  ∃ b j, v = { u with br := b, jbr := j } ∧ b.space = u.br.space ∧ (u.br.InBuffer → b.InBuffer) ∧
    (u.jbr.cnt ≤ 8 → j.cnt ≤ 8)

theorem State.Reads.refl (u : State) : u.Reads u := ⟨u.br, u.jbr, rfl, rfl, id, id⟩

theorem State.Reads.trans (h : u.Reads v) (h' : v.Reads w) : u.Reads w := by
  obtain ⟨b, j, rfl, hspace, hbr, hjbr⟩ := h
  obtain ⟨b', j', rfl, hspace', hbr', hjbr'⟩ := h'
  exact ⟨b', j', rfl, hspace'.trans hspace, hbr' ∘ hbr, hjbr' ∘ hjbr⟩

/-- A seek to a place among the bits that are left (R141). -/
theorem reads_brSeek {p : Nat} (h : p ≤ brPos u + brUnread u) : u.Reads (brSeek p u) := by
  refine ⟨(brSeek p u).br, u.jbr, rfl, rfl, fun hu => ?_, id⟩
  have hpos := (inBuffer_iff u).1 hu
  rw [inBuffer_iff, brPos_brSeek]
  unfold brUnread at h
  show p ≤ 8 * u.br.len
  omega

theorem reads_alignToByte (u : State) : u.Reads (alignToByte u) := by
  rw [alignToByte_eq]
  refine ⟨_, u.jbr, rfl, rfl, fun hu => ?_, id⟩
  have hpos := (inBuffer_iff u).1 hu
  refine ⟨?_, fun h => absurd rfl h⟩
  show (brPos u + 7) / 8 ≤ u.br.len
  omega

/-- A move of the JBR cursor alone. -/
theorem reads_jbr {j : Jbr} (h : u.jbr.cnt ≤ 8 → j.cnt ≤ 8) : u.Reads { u with jbr := j } :=
  ⟨u.br, j, rfl, rfl, id, h⟩

theorem Res.Leaves.imp {α : Type} {P Q : State → Prop} {x : Res α} (hx : x.Leaves P) (hPQ : ∀ v, P v → Q v) :
    x.Leaves Q := by
  cases x with
  | ok a v => exact hPQ v hx
  | fail k v => exact hPQ v hx

theorem readBits_reads (n : Nat) (u : State) : (readBits n u).Leaves u.Reads := by
  unfold readBits
  split
  · exact State.Reads.refl u
  · exact reads_brSeek (by omega)

theorem readBitsReversed_reads (n : Nat) (u : State) : (readBitsReversed n u).Leaves u.Reads := by
  unfold readBitsReversed
  split
  · exact State.Reads.refl u
  · exact reads_brSeek (by omega)

theorem readBytes_reads (n : Nat) (u : State) : (readBytes n u).Leaves u.Reads := by
  have haligned := reads_alignToByte u
  unfold readBytes
  dsimp only
  split
  · exact haligned
  · refine haligned.trans ⟨_, (alignToByte u).jbr, rfl, rfl, fun ⟨hbyte, _⟩ => ?_, id⟩
    have hbit : (alignToByte u).br.bitPos = 0#3 := by rw [alignToByte_eq]
    refine ⟨?_, fun h => absurd hbit h⟩
    show (alignToByte u).br.bytePos + n ≤ (alignToByte u).br.len
    omega

theorem extraBits_reads (n : Nat) (u : State) : (extraBits n u).Leaves u.Reads := by
  unfold extraBits
  split
  · exact State.Reads.refl u
  · exact readBits_reads n u

theorem readClenFields_reads (n : Nat) (u : State) : (readClenFields n u).Leaves u.Reads := by
  induction n generalizing u with
  | zero => exact State.Reads.refl u
  | succ n ih =>
    exact (readBits_reads 3 u).bind fun _ v hv => ((ih v).imp fun _ hw => hv.trans hw).bind fun _ _ hw => hw

/-- A walk that finds no child has read at least one bit, and at most those it was given (R171). -/
theorem walkTree_missing {nodes : List Node} {bit : Nat → Bool} {fuel n p q : Nat}
    (h : walkTree nodes bit fuel n p = .missing q) : p < q ∧ q ≤ p + fuel := by
  induction fuel generalizing n p with
  | zero => cases h
  | succ fuel ih =>
    unfold walkTree at h
    split at h
    · injection h with hq
      omega
    · split at h
      · injection h with hq
        omega
      · split at h
        · cases h
        · have := ih h
          omega

theorem decodeSymbol_reads (t : Tree) (u : State) : (decodeSymbol t u).Leaves u.Reads := by
  unfold decodeSymbol
  split
  · rename_i hwalk
    exact reads_brSeek (walkTree_leaf hwalk).2
  · rename_i hwalk
    exact reads_brSeek (walkTree_missing hwalk).2
  · exact State.Reads.refl u

/-- A bit of JBR is taken from at most 8, or leaves 7 of a new byte (R304). -/
theorem jbrBit_cnt {b : Bool} {j j' : Jbr} (h : jbrBit u j = some (b, j')) (hj : j.cnt ≤ 8) : j'.cnt ≤ 8 := by
  unfold jbrBit at h
  split at h
  · cases h
    exact Nat.le_trans (Nat.sub_le _ _) hj
  · split at h
    · cases h
    · split at h
      · split at h
        · cases h
        · cases h
          exact Nat.le_succ 7
      · cases h
        exact Nat.le_succ 7

theorem jbrReceive_cnt {n a x : Nat} {j j' : Jbr} (h : jbrReceive u n a j = some (x, j')) (hj : j.cnt ≤ 8) :
    j'.cnt ≤ 8 := by
  induction n generalizing a j with
  | zero =>
    cases h
    exact hj
  | succ n ih =>
    unfold jbrReceive at h
    split at h
    · cases h
    · rename_i hbit
      exact ih h (jbrBit_cnt hbit hj)

/-- The JBR cursor where a walk has ended, with or without a symbol. -/
def JWalk.cursor : JWalk → Option Jbr
  | .leaf _ j => some j
  | .missing j => some j
  | .exhausted => none

theorem jwalkTree_cnt {nodes : List Node} {fuel n : Nat} {j j' : Jbr}
    (h : (jwalkTree nodes u fuel n j).cursor = some j') (hj : j.cnt ≤ 8) : j'.cnt ≤ 8 := by
  induction fuel generalizing n j with
  | zero => cases h
  | succ fuel ih =>
    unfold jwalkTree at h
    split at h
    · cases h
    · rename_i hbit
      have hcnt := jbrBit_cnt hbit hj
      split at h
      · cases h
        exact hcnt
      · split at h
        · cases h
          exact hcnt
        · split at h
          · cases h
            exact hcnt
          · exact ih h hcnt

theorem receive_reads (n : Nat) (u : State) : (receive n u).Leaves u.Reads := by
  unfold receive
  split
  · rename_i hreceive
    exact reads_jbr (jbrReceive_cnt hreceive)
  · exact State.Reads.refl u

theorem jdecode_reads (t : Tree) (u : State) : (jdecode t u).Leaves u.Reads := by
  unfold jdecode
  split
  · rename_i hwalk
    exact reads_jbr (jwalkTree_cnt (congrArg JWalk.cursor hwalk))
  · rename_i hwalk
    exact reads_jbr (jwalkTree_cnt (congrArg JWalk.cursor hwalk))
  · exact State.Reads.refl u

end Sys2Proof.Machine

/-! SUPPORT. The invariants of the cursors, carried through a step (10_state.md R24, R54; 44_png.md R273). A call starts,
works and then goes on, ends well or fails: `State.Tracks` is what holds while the call works, `State.KeepsCursors` what
the step leaves. -/

namespace Sys2Proof.Machine

variable {s u v : State}

/-- A step from `s` may leave `t`. -/
def State.KeepsCursors (s t : State) : Prop :=
  (s.CursorOk → t.CursorOk) ∧ (s.IdatOnlyInPng → t.IdatOnlyInPng)

/-- A step from `s` may reach `u` while the call works: the cursors are in range, and BR is on `IDAT` only where the call
is a `PNG_DECODE`. It says nothing of the control point, nor of any register but the cursors. -/
def State.Tracks (s u : State) : Prop :=
  (s.CursorOk → u.CursorOk) ∧ (s.IdatOnlyInPng → u.brLive = true → u.br.space = .idat → u.running = some .png)

theorem State.KeepsCursors.refl (s : State) : s.KeepsCursors s := ⟨id, id⟩

theorem State.KeepsCursors.trans (h : s.KeepsCursors u) (h' : u.KeepsCursors v) : s.KeepsCursors v :=
  ⟨h'.1 ∘ h.1, h'.2 ∘ h.2⟩

theorem State.KeepsCursors.tracks (h : s.KeepsCursors u) : s.Tracks u :=
  ⟨h.1, fun hs hlive hspace => (h.2 hs hlive hspace).1⟩

/-- At rest BR is not on `IDAT`, so a call of any kind may begin (R442). -/
theorem tracks_begun (hidle : u.point = .idle) (c : Call) : u.Tracks (beginCall c u) :=
  ⟨id, fun hu hlive hspace => absurd hidle (hu hlive hspace).2⟩

/-- The cursors read in range, and the call is the same. -/
theorem State.Reads.cursorOk (h : u.Reads v) : u.CursorOk → v.CursorOk := by
  obtain ⟨b, j, rfl, -, hbr, hjbr⟩ := h
  exact fun ⟨hu, hu'⟩ => ⟨fun hlive => hbr (hu hlive), fun hlive => hjbr (hu' hlive)⟩

theorem State.Reads.keeps (h : u.Reads v) : u.KeepsCursors v := by
  refine ⟨h.cursorOk, fun hu hlive hspace => ?_⟩
  obtain ⟨b, j, rfl, hb, -⟩ := h
  exact hu hlive (hb.symm.trans hspace)

theorem State.Reads.running (h : u.Reads v) : v.running = u.running := by
  obtain ⟨b, j, rfl, -⟩ := h
  rfl

theorem State.Tracks.reads (h : s.Tracks u) (hr : u.Reads v) : s.Tracks v := by
  refine ⟨hr.cursorOk ∘ h.1, fun hs hlive hspace => ?_⟩
  obtain ⟨b, j, rfl, hb, -⟩ := hr
  exact h.2 hs hlive (hb.symm.trans hspace)

/-- BR bound to a window of `IN`, or of `IDAT` for a `PNG_DECODE` (R25, R244). -/
theorem State.Tracks.bindBr (h : s.Tracks u) {space : Space} {base len : Nat}
    (hspace : space = .idat → u.running = some .png) : s.Tracks (bindBr space base len u) :=
  ⟨fun hs => ⟨fun _ => ⟨Nat.zero_le _, fun hbit => absurd rfl hbit⟩, (h.1 hs).2⟩, fun _ _ => hspace⟩

/-- JBR set anew (R308, R385). -/
theorem State.Tracks.withJbr (h : s.Tracks u) {j : Jbr} {live : Bool} (hj : j.cnt ≤ 8) :
    s.Tracks { u with jbr := j, jbrLive := live } :=
  ⟨fun hs => ⟨(h.1 hs).1, fun _ => hj⟩, h.2⟩

/-- BR drawn anew is in a window of `IN` (R24, R71). -/
theorem State.Tracks.discardBr (h : s.Tracks u) : s.Tracks (discardBr u) := by
  obtain ⟨hspace, -, hbuffer⟩ := cutToInput_inside (inLength u) (Config.br u.draws)
  refine ⟨fun hs => ⟨fun _ => hbuffer, (h.1 hs).2⟩, fun _ _ hidat => ?_⟩
  cases hspace.symm.trans hidat

/-- The call goes on: something is fetched next. -/
theorem keeps_goesOn (h : s.Tracks u) (hp : u.point ≠ .idle) : s.KeepsCursors u :=
  ⟨h.1, fun hs hlive hspace => ⟨h.2 hs hlive hspace, hp⟩⟩

/-- The call ends well, and leaves BR on `IN` (R443). -/
theorem keeps_ends (h : s.Tracks u) (hspace : u.running = some .png → u.br.space = .input) :
    s.KeepsCursors (endOk u) := by
  refine ⟨h.1, fun hs hlive hidat => ?_⟩
  have hinput := hspace (h.2 hs hlive hidat)
  cases hinput.symm.trans hidat

/-- The end of a call that is not a `PNG_DECODE`. -/
theorem keeps_endOk {c : Call} (h : s.Tracks u) (hr : u.running = some c) (hc : c ≠ .png) : s.KeepsCursors (endOk u) :=
  keeps_ends h fun hpng => absurd (Option.some.inj (hr.symm.trans hpng)) hc

theorem keeps_endZlib (h : s.Tracks u) : s.KeepsCursors (endZlib u) :=
  keeps_ends (State.Tracks.discardBr (u := dropInflateTrees u) h) fun _ => rfl

theorem keeps_endJpeg (h : s.Tracks u) : s.KeepsCursors (endJpeg u) :=
  keeps_ends ((State.Tracks.discardBr (u := dropJpegTrees u) h).withJbr (Nat.min_le_right _ _)) fun _ => rfl

/-- The call fails: it closes both cursors, or it used neither and is no `PNG_DECODE` (R403, R405). -/
theorem keeps_failCall (h : s.Tracks u) (k : FailKind) : s.KeepsCursors (failCall k u) := by
  unfold State.KeepsCursors State.CursorOk State.IdatOnlyInPng
  rw [failCall_brLive, failCall_jbrLive]
  cases huses : (u.running.getD .plain).usesCursor with
  | true => simp
  | false =>
    have hpng : u.running ≠ some .png := fun hr => by
      rw [hr] at huses
      cases huses
    rw [failCall_br_kept k u huses, failCall_jbr_kept k u huses, Bool.not_false, Bool.and_true, Bool.and_true]
    exact ⟨h.1, fun hs hlive hspace => absurd (h.2 hs hlive hspace) hpng⟩

theorem keeps_raise {k : FailKind} (h : s.Tracks u) : Answers s.KeepsCursors (raise k u) := keeps_failCall h k

theorem keeps_unlessFail {checks : List (Bool × FailKind)} {k : Out} (hu : s.Tracks u)
    (h : Answers s.KeepsCursors k) : Answers s.KeepsCursors (unlessFail checks u k) := by
  refine answers_of_next fun t ho => ?_
  obtain ⟨-, ht⟩ | ⟨kind, -, rfl⟩ := unlessFail_next ho
  · exact h.of_next ht
  · exact keeps_failCall hu kind

/-- A read inside a call leaves it where it was. -/
theorem Res.Leaves.tracked {α : Type} {x : Res α} (hx : x.Leaves u.Reads) (h : s.Tracks u) : x.Leaves s.Tracks :=
  hx.imp fun _ hv => h.reads hv

/-- An operation that can fail, and what follows it. -/
theorem Res.Leaves.keeps {α : Type} {x : Res α} {f : α → State → Out} (hx : x.Leaves s.Tracks)
    (hf : ∀ a v, s.Tracks v → Answers s.KeepsCursors (f a v)) : Answers s.KeepsCursors (x.run f) := by
  cases x with
  | ok a v => exact hf a v hx
  | fail k v => exact keeps_raise hx

/-- The outcomes of an operation, from what its inversion lemmas say. -/
theorem Res.leaves_of {α : Type} {P : State → Prop} {x : Res α} (hok : ∀ a v, x = .ok a v → P v)
    (hfail : ∀ k v, x = .fail k v → P v) : x.Leaves P := by
  cases x with
  | ok a v => exact hok a v rfl
  | fail k v => exact hfail k v rfl

/-! The shared operations that load or check. -/

theorem segment_tracks (h : s.Tracks u) : (segment u).Leaves s.Tracks := by
  refine Res.leaves_of (fun _ v hv => ?_) fun _ v hv => ?_
  · obtain ⟨-, -, -, -, rfl⟩ := segment_ok hv
    exact h
  · obtain rfl := segment_fail hv
    exact h

theorem dequantize_tracks {t : Nat} (h : s.Tracks u) : (dequantize t u).Leaves s.Tracks := by
  refine Res.leaves_of (fun _ v hv => ?_) fun _ v hv => ?_
  · obtain ⟨-, rfl⟩ := dequantize_ok hv
    exact h
  · obtain ⟨-, rfl⟩ := dequantize_fail hv
    exact h

theorem noteBadTable_png (t : Nat) : noteBadTable t (some .png) = some .png := rfl

theorem loadQuantTables_tracks {fuel : Nat} {payload : List Byte} (h : s.Tracks u) :
    (loadQuantTables fuel payload u).Leaves s.Tracks := by
  refine Res.leaves_of (fun _ v hv => ?_) fun _ v hv => ?_
  · obtain ⟨qt, qtPrec, qtDef, rfl⟩ := loadQuantTables_frame hv
    exact h
  · obtain ⟨qt, qtPrec, qtDef, r, rfl, rfl | ⟨t, rfl⟩⟩ := loadQuantTables_fail_frame hv
    · exact h
    · refine ⟨h.1, fun hs hlive hspace => ?_⟩
      show noteBadTable t u.running = some .png
      rw [h.2 hs hlive hspace, noteBadTable_png]

/-! INF and ZLB (42_inflate.md, 43_zlib.md). -/

theorem State.Tracks.emitAll (h : s.Tracks u) (bytes : List Byte) : s.Tracks (emitAll bytes u) := by
  obtain ⟨o, w, i, e, -⟩ := emitAll_frame bytes u
  rw [e]
  exact h

theorem State.Tracks.copyBack (h : s.Tracks u) (d n : Nat) : s.Tracks (copyBack d n u) := by
  obtain ⟨o, w, i, e, -⟩ := copyBack_frame d n u
  rw [e]
  exact h

theorem keeps_finishBlock (h : s.Tracks u) : Answers s.KeepsCursors (finishBlock u) := by
  have hsum : s.Tracks (sumAdler u) := h
  refine answers_of_next fun t ho => ?_
  -- a block header follows; or INF ends; or ZLB ends or fails; or PNG fails one of two ways or goes on to its rows
  obtain ⟨-, rfl⟩ | ⟨-, ⟨hr, rfl⟩ | ⟨-, rfl | rfl⟩ | ⟨-, rfl | rfl | rfl⟩⟩ := finishBlock_next ho
  · exact keeps_goesOn h nofun
  · exact keeps_endOk (c := .inflate) h hr nofun
  · exact keeps_endZlib h
  · exact keeps_failCall hsum _
  · exact keeps_failCall hsum _
  · exact keeps_failCall (u := { sumAdler u with raw := u.out, out := [] }) h _
  · exact keeps_goesOn h nofun

theorem keeps_execStoredLenNlen {len nlen : Half} (h : s.Tracks u) :
    Answers s.KeepsCursors (execStoredLenNlen len nlen u) :=
  answers_ite
    (Res.Leaves.keeps ((readBytes_reads _ _).tracked h) fun bytes _ hv => keeps_finishBlock (hv.emitAll bytes))
    (keeps_raise h)

theorem keeps_execDynCounts {hlit hdist : BitVec 5} {hclen : BitVec 4} (h : s.Tracks u) :
    Answers s.KeepsCursors (execDynCounts hlit hdist hclen u) :=
  Res.Leaves.keeps ((readClenFields_reads _ _).tracked h) fun _ _ hv => answers_ite (keeps_goesOn hv nofun) trivial

theorem keeps_lengthsDone (h : s.Tracks u) : Answers s.KeepsCursors (lengthsDone u) :=
  answers_ite (keeps_goesOn h nofun) (answers_ite (keeps_goesOn h nofun) trivial)

theorem keeps_appendLengths {v r : Nat} (h : s.Tracks u) : Answers s.KeepsCursors (appendLengths v r u) :=
  answers_ite (keeps_raise h) (keeps_lengthsDone h)

theorem keeps_execClRep (h : s.Tracks u) : Answers s.KeepsCursors (execClRep u) := by
  unfold execClRep
  split
  · exact keeps_raise h
  · exact ((readBits_reads _ _).tracked h).keeps fun _ _ hv => keeps_appendLengths hv

theorem keeps_matchLength {i : Nat} (h : s.Tracks u) : Answers s.KeepsCursors (matchLength i u) :=
  ((extraBits_reads _ _).tracked h).keeps fun _ _ hv => keeps_goesOn hv nofun

theorem keeps_matchDistance {d : Nat} (h : s.Tracks u) : Answers s.KeepsCursors (matchDistance d u) :=
  ((extraBits_reads _ _).tracked h).keeps fun _ _ hv =>
    answers_ite (keeps_raise hv) (keeps_goesOn (hv.copyBack _ _) nofun)

theorem keeps_lengthCode {i : Instr} (hi : i ∈ lengthInstrs) (h : s.Tracks u) : Answers s.KeepsCursors (exec i u) := by
  obtain ⟨k, hk⟩ := List.getElem?_of_mem hi
  rw [exec_lengthInstrs hk]
  exact keeps_matchLength h

theorem keeps_distanceCode {i : Instr} (hi : i ∈ distInstrs) (h : s.Tracks u) : Answers s.KeepsCursors (exec i u) := by
  obtain ⟨k, hk⟩ := List.getElem?_of_mem hi
  rw [exec_distInstrs hk]
  exact keeps_matchDistance h

theorem keeps_beginZlib (h : s.Tracks u) : Answers s.KeepsCursors (beginZlib u) :=
  answers_ite (keeps_raise h) (keeps_goesOn h nofun)

/-- The body that INF reads is on `IDAT` when PNG calls ZLB (R244, R273). -/
theorem zlibSpace_idat (h : zlibSpace u = .idat) : u.running = some .png := by
  unfold zlibSpace at h
  split at h
  · assumption
  · cases h

theorem keeps_execZlibHdr {cmf flg : Byte} (h : s.Tracks u) : Answers s.KeepsCursors (execZlibHdr cmf flg u) := by
  unfold execZlibHdr
  dsimp only
  split
  · exact keeps_raise h
  · exact keeps_goesOn (h.bindBr zlibSpace_idat) nofun

/-! PNG (44_png.md). -/

theorem keeps_execChunkIend (h : s.Tracks u) : Answers s.KeepsCursors (execChunkIend u) :=
  answers_ite (keeps_raise h) (keeps_beginZlib ⟨h.1, fun _ _ _ => rfl⟩)

theorem keeps_checkHeader {legal : List Nat} (h : s.Tracks u) : Answers s.KeepsCursors (checkHeader legal u) :=
  answers_ite (keeps_raise h) <| answers_ite (keeps_raise h) <| answers_ite (keeps_raise h) <|
    answers_ite (keeps_raise h) (keeps_goesOn h nofun)

theorem keeps_convertRows {ch : Nat} {f : List Byte → Option (List Byte)} (h : s.Tracks u) :
    Answers s.KeepsCursors (convertRows ch f u) := by
  unfold convertRows
  split
  · exact keeps_endZlib h
  · exact keeps_raise h

theorem keeps_reconstructRow {pred : Byte → Byte → Byte → Byte} (h : s.Tracks u) :
    Answers s.KeepsCursors (reconstructRow pred u) := by
  refine keeps_goesOn h ?_
  show (if _ then Point.pngRow else .pngConvert) ≠ .idle
  split <;> nofun

/-! The scan of a JPEG file, JDEC and JCOEF (48_jpeg_decoder.md, 45_jpeg_entropy.md). -/

theorem keeps_nextBlock (h : s.Tracks u) : s.KeepsCursors (nextBlock u) := by
  obtain ⟨jd, jc, co, j, p, e, hp, -, hj⟩ := nextBlock_frame u
  have hread : s.Tracks { u with jbr := j } := h.reads (reads_jbr hj)
  rw [e]
  refine keeps_goesOn hread ?_
  rcases hp with rfl | rfl | rfl <;> nofun

theorem keeps_beginScan (h : s.Tracks u) : s.KeepsCursors (beginScan u) := by
  have hreset : s.Tracks (resetEntropy u.jdec.pos u) := h.withJbr (Nat.zero_le 8)
  rw [beginScan_eq]
  exact keeps_goesOn hreset nofun

theorem keeps_takeRestart (h : s.Tracks u) : s.KeepsCursors (takeRestart u) :=
  keeps_goesOn (h.withJbr (j := { pos := u.jbr.pos + 2, acc := 0#8, cnt := 0 }) (Nat.zero_le 8)) nofun

theorem keeps_blockDone (h : s.Tracks u) : Answers s.KeepsCursors (blockDone u) := by
  unfold blockDone
  split
  · rename_i c hr
    exact keeps_endOk (c := .block c) h hr nofun
  · exact (dequantize_tracks h).keeps fun _ v hv => keeps_nextBlock (u := placeBlock (transform v)) hv
  · trivial

theorem keeps_acLoop (h : s.Tracks u) : Answers s.KeepsCursors (acLoop u) :=
  answers_ite (keeps_goesOn h nofun) (keeps_blockDone h)

theorem keeps_execDcCat {t : BitVec 4} (h : s.Tracks u) : Answers s.KeepsCursors (execDcCat t u) :=
  ((receive_reads _ _).tracked h).keeps fun _ _ hv => keeps_acLoop hv

theorem keeps_execAcRunsize {rs : Byte} (h : s.Tracks u) : Answers s.KeepsCursors (execAcRunsize rs u) :=
  answers_ite (keeps_raise h) (((receive_reads _ _).tracked h).keeps fun _ _ hv => keeps_acLoop hv)

theorem keeps_execMSof0 (h : s.Tracks u) : Answers s.KeepsCursors (execMSof0 u) :=
  (segment_tracks h).keeps fun _ _ hv =>
    keeps_unlessFail hv <| keeps_unlessFail hv <| keeps_unlessFail hv <| keeps_goesOn hv nofun

theorem keeps_execMDqt (h : s.Tracks u) : Answers s.KeepsCursors (execMDqt u) :=
  (segment_tracks h).keeps fun _ _ hv => (loadQuantTables_tracks hv).keeps fun _ _ hw => keeps_goesOn hw nofun

theorem keeps_execMDri (h : s.Tracks u) : Answers s.KeepsCursors (execMDri u) :=
  (segment_tracks h).keeps fun _ _ hv => keeps_unlessFail hv <| keeps_goesOn hv nofun

theorem keeps_loadHuffTables {fuel : Nat} {payload : List Byte} (h : s.Tracks u) :
    Answers s.KeepsCursors (loadHuffTables fuel payload u) := by
  refine answers_of_next fun t ho => ?_
  obtain ⟨jdc, jac, jhuf, draws, rfl | ⟨k, rfl⟩⟩ := loadHuffTables_next ho
  · exact keeps_goesOn h nofun
  · exact keeps_failCall (u := { u with jdc := jdc, jac := jac, jhuf := jhuf, draws := draws }) h k

theorem keeps_execMDht (h : s.Tracks u) : Answers s.KeepsCursors (execMDht u) :=
  (segment_tracks h).keeps fun _ _ hv => keeps_loadHuffTables hv

theorem keeps_execMSos (h : s.Tracks u) : Answers s.KeepsCursors (execMSos u) :=
  (segment_tracks h).keeps fun _ _ hv => keeps_unlessFail hv <| keeps_unlessFail hv <| keeps_beginScan hv

theorem keeps_execMOther (code : Byte) (h : s.Tracks u) : Answers s.KeepsCursors (execMOther code u) :=
  (segment_tracks h).keeps fun _ _ hv => keeps_goesOn hv nofun

end Sys2Proof.Machine

/-! SUPPORT. Every step keeps the invariants of the cursors: the commands (30_encoding.md R101), the stream elements, the
fetch (10_state.md R21) and the host's operations (R22; 60_exceptions.md R416, R422). -/

namespace Sys2Proof.Machine

variable {s u v : State}

/-! The commands. -/

/-- A command that is taken begins its call from rest (R22, R442). -/
theorem keeps_whenIdle {k : Out} (h : u.point = .idle → Answers u.KeepsCursors k) :
    Answers u.KeepsCursors (whenIdle u k) :=
  answers_of_next fun _ ho => (h (whenIdle_next ho).1.1).of_next (whenIdle_next ho).2

theorem tracks_begunStream (hidle : u.point = .idle) (c : Call) : u.Tracks (beginStream c u) :=
  (tracks_begun hidle c).bindBr nofun

/-- A command of BR or `HUF_DECODE`: it reads, then ends. -/
theorem Res.Leaves.keepsReader {α : Type} {x : Res α} {f : α → State → Out} (hidle : u.point = .idle)
    (hx : x.Leaves (beginCall .reader u).Reads)
    (hf : ∀ a v, u.Tracks v → v.running = some .reader → Answers u.KeepsCursors (f a v)) :
    Answers u.KeepsCursors (x.run f) := by
  have htracks := tracks_begun hidle .reader
  cases x with
  | ok a v => exact hf a v (htracks.reads hx) (State.Reads.running hx)
  | fail k v => exact keeps_raise (htracks.reads hx)

theorem keeps_endValue {a : Nat} {c : Call} (h : s.Tracks u) (hr : u.running = some c) (hc : c ≠ .png) :
    s.KeepsCursors (endValue a u) :=
  keeps_endOk h hr hc

/-- The fixed trees, whatever they are, are no part of the cursors. -/
theorem State.Tracks.withFixedTrees (h : s.Tracks u) (ll d : Tree) : s.Tracks { u with tFixLL := ll, tFixD := d } := h

theorem keeps_execHufBuildFixed (u : State) : Answers u.KeepsCursors (execHufBuildFixed u) :=
  keeps_whenIdle fun hidle => keeps_endOk (c := .plain)
    (State.Tracks.withFixedTrees (u := releaseHuf (beginCall .plain u)) (tracks_begun hidle .plain) _ _) rfl nofun

theorem keeps_execHufDecode (u : State) : Answers u.KeepsCursors (execHufDecode u) := by
  refine keeps_whenIdle fun hidle => answers_whenBrLive ?_
  split
  · trivial
  · exact answers_ite ((decodeSymbol_reads _ _).keepsReader hidle fun _ _ hv hr => keeps_endValue hv hr nofun) trivial

theorem State.Tracks.setJpegSlot (h : s.Tracks u) (n : Nat) (t : Tree) : s.Tracks (setJpegSlot u n t) := by
  unfold Machine.setJpegSlot
  split <;> exact h

theorem setJpegSlot_running (n : Nat) (t : Tree) (u : State) : (setJpegSlot u n t).running = u.running := by
  unfold setJpegSlot
  split <;> rfl

theorem keeps_execJhufBuild (u : State) : Answers u.KeepsCursors (execJhufBuild u) := by
  unfold execJhufBuild
  generalize inputCounts u = counts
  generalize inputSymbols u = syms
  exact keeps_whenIdle fun hidle => answers_ite trivial <| answers_ite
    (keeps_endOk ((tracks_begun hidle .plain).setJpegSlot _ _) (setJpegSlot_running _ _ _) nofun) trivial

/-- A load that succeeds leaves the call as it is; one that fails has a call to end (R330, R405). -/
theorem keeps_execJdqLoad (u : State) : Answers u.KeepsCursors (execJdqLoad u) := by
  refine keeps_whenIdle fun hidle => answers_ite trivial ?_
  have htracks := tracks_begun hidle (.quantLoad (quantLoadId u))
  unfold loadQuant
  split
  · exact keeps_raise htracks
  · exact keeps_endOk (c := .quantLoad (quantLoadId u)) htracks rfl nofun

theorem keeps_execJdqBlock (u : State) : Answers u.KeepsCursors (execJdqBlock u) := by
  refine keeps_whenIdle fun hidle => answers_ite trivial ?_
  have htracks := tracks_begun hidle .dequant
  refine answers_of_next fun t ho => ?_
  obtain ⟨_, v, hv, ht⟩ | ⟨k, v, hv, rfl⟩ := Res.run_next ho
  · obtain ⟨-, rfl⟩ := dequantize_ok hv
    cases ht
    exact keeps_endOk (c := .dequant) htracks rfl nofun
  · obtain ⟨-, rfl⟩ := dequantize_fail hv
    exact keeps_failCall htracks k

theorem keeps_exec (i : Instr) (u : State) : Answers u.KeepsCursors (exec i u) := by
  have h := (State.KeepsCursors.refl u).tracks
  cases i with
  | brReset =>
    exact keeps_whenIdle fun hidle => keeps_endOk (c := .plain) ((tracks_begun hidle .plain).bindBr nofun) rfl nofun
  | brReadbits =>
    exact keeps_whenIdle fun hidle => answers_whenBrLive <| answers_whenBitCount <|
      (readBits_reads _ _).keepsReader hidle fun _ _ hv hr => keeps_endValue hv hr nofun
  | brReadbit =>
    exact keeps_whenIdle fun hidle => answers_whenBrLive <|
      (readBits_reads _ _).keepsReader hidle fun _ _ hv hr => keeps_endValue hv hr nofun
  | brReadbitsRev =>
    exact keeps_whenIdle fun hidle => answers_whenBrLive <| answers_whenBitCount <|
      (readBitsReversed_reads _ _).keepsReader hidle fun _ _ hv hr => keeps_endValue hv hr nofun
  | brAlign =>
    have haligned := reads_alignToByte (beginCall .reader u)
    exact keeps_whenIdle fun hidle => answers_whenBrLive <|
      keeps_endOk ((tracks_begun hidle .reader).reads haligned) haligned.running nofun
  | brReadbytes =>
    exact keeps_whenIdle fun hidle => answers_whenBrLive <|
      (readBytes_reads _ _).keepsReader hidle fun _ _ hv hr => keeps_endOk (c := .reader) hv hr nofun
  | hufBuild =>
    exact keeps_whenIdle fun hidle => answers_ite trivial <|
      answers_ite (keeps_endOk (c := .plain) (tracks_begun hidle .plain) rfl nofun) trivial
  | hufDecode => exact keeps_execHufDecode u
  | hufBuildFixed => exact keeps_execHufBuildFixed u
  | jidctBlock | jccPixel | jccGray =>
    exact keeps_whenIdle fun hidle => keeps_endOk (c := .plain) (tracks_begun hidle .plain) rfl nofun
  | infDecompress => exact keeps_whenIdle fun hidle => keeps_goesOn (tracks_begunStream hidle .inflate) nofun
  | zlbDecompress => exact keeps_whenIdle fun hidle => keeps_beginZlib (tracks_begunStream hidle .zlib)
  | pngDecode => exact keeps_whenIdle fun hidle => keeps_goesOn (tracks_begunStream hidle .png) nofun
  | jpegDecode => exact keeps_whenIdle fun hidle => keeps_goesOn (tracks_begunStream hidle (.jpeg none)) nofun
  | jhufBuild => exact keeps_execJhufBuild u
  | jcReset =>
    exact keeps_whenIdle fun hidle => answers_ite trivial <|
      keeps_endOk (c := .plain)
        (State.Tracks.withJbr (u := beginCall .plain u) (tracks_begun hidle .plain) (Nat.zero_le 8)) rfl nofun
  | jcBlock =>
    exact keeps_whenIdle fun hidle => answers_ite trivial <| answers_ite trivial <| answers_ite trivial <|
      keeps_goesOn (tracks_begun hidle (.block u.arg0.toNat)) nofun
  | jdqLoad => exact keeps_execJdqLoad u
  | jdqBlock => exact keeps_execJdqBlock u
  | blockStored b =>
    have haligned : u.Tracks (alignToByte (latchHeader b 0#2 u)) :=
      State.Tracks.reads (u := latchHeader b 0#2 u) h (reads_alignToByte _)
    exact keeps_goesOn haligned nofun
  | blockFixed | blockDynamic | fixll0to143 | fixll144to255 | fixll256to279 | fixll280to287 | fixd0to31 | lit |
    pngSignature | chunkOther => exact keeps_goesOn h nofun
  | storedLenNlen => exact keeps_execStoredLenNlen h
  | dynCounts => exact keeps_execDynCounts h
  | clLen => exact keeps_lengthsDone h
  | clRep => exact keeps_execClRep h
  | clZero3 | clZero11 => exact ((readBits_reads _ _).tracked h).keeps fun _ _ hv => keeps_appendLengths hv
  | eob => exact keeps_finishBlock h
  | len257 | len258 | len259 | len260 | len261 | len262 | len263 | len264 | len265 | len266 | len267 | len268 |
    len269 | len270 | len271 | len272 | len273 | len274 | len275 | len276 | len277 | len278 | len279 | len280 |
    len281 | len282 | len283 | len284 | len285 => exact keeps_lengthCode (by decide) h
  | dist0 | dist1 | dist2 | dist3 | dist4 | dist5 | dist6 | dist7 | dist8 | dist9 | dist10 | dist11 | dist12 |
    dist13 | dist14 | dist15 | dist16 | dist17 | dist18 | dist19 | dist20 | dist21 | dist22 | dist23 | dist24 |
    dist25 | dist26 | dist27 | dist28 | dist29 => exact keeps_distanceCode (by decide) h
  | zlibHdr => exact keeps_execZlibHdr h
  | chunkIhdr | chunkPlte =>
    exact answers_ite (keeps_raise h) (answers_ite (keeps_raise h) (keeps_goesOn h nofun))
  | chunkIdat => exact answers_ite (keeps_raise h) (keeps_goesOn h nofun)
  | chunkIend => exact keeps_execChunkIend h
  | ihdrPayload => exact answers_ite (keeps_raise h) (keeps_goesOn h nofun)
  | ctGray | ctTruecolor | ctIndexed | ctGrayAlpha | ctTruecolorAlpha =>
    exact answers_ite (keeps_convertRows h) (keeps_checkHeader h)
  | filterNone | filterSub | filterUp | filterAverage | filterPaeth => exact keeps_reconstructRow h
  | mSoi => exact answers_ite (keeps_raise h) (keeps_goesOn h nofun)
  | mEoi => exact answers_ite (keeps_raise h) (keeps_endJpeg h)
  | mSof0 => exact keeps_execMSof0 h
  | blockReserved | lenInvalid | distInvalid | ctInvalid | filterInvalid | mSof1 | mSof2 | mSof3 | mSof5 | mSof6 |
    mSof7 | mSof9 | mSof10 | mSof11 | mSof13 | mSof14 | mSof15 | dcInvalid => exact keeps_raise h
  | mDht => exact keeps_execMDht h
  | mDqt => exact keeps_execMDqt h
  | mDri => exact keeps_execMDri h
  | mSos => exact keeps_execMSos h
  | mRst => exact answers_ite (keeps_takeRestart h) (keeps_raise h)
  | mOther code => exact keeps_execMOther code h
  | dcCat => exact keeps_execDcCat h
  | acEob => exact keeps_blockDone h
  | acZrl => exact keeps_acLoop h
  | acRunsize => exact keeps_execAcRunsize h

/-! The fetch: it reads, or takes note of a chunk or a marker. -/

/-- A read as the fetch does it. -/
theorem Res.Leaves.fetchedReads {x : Res Nat} (hx : x.Leaves u.Reads) {f : Format} :
    (Fetched.ofRes f x).Leaves u.KeepsCursors :=
  (hx.imp fun _ hv => hv.keeps).fetched

theorem fetchSymbol_keeps (f : Format) (t : Tree) (u : State) : (fetchSymbol f t u).Leaves u.KeepsCursors := by
  unfold fetchSymbol
  split
  · exact (decodeSymbol_reads t u).fetchedReads
  · trivial

theorem fetchJpegSymbol_keeps (f : Format) (t : Tree) (u : State) : (fetchJpegSymbol f t u).Leaves u.KeepsCursors := by
  unfold fetchJpegSymbol
  split
  · exact (jdecode_reads t u).fetchedReads
  · trivial

theorem fetchSignature_keeps (u : State) : (fetchSignature u).Leaves u.KeepsCursors := by
  unfold fetchSignature
  repeat' split
  all_goals exact State.KeepsCursors.refl u

theorem fetchChunk_keeps (u : State) : (fetchChunk u).Leaves u.KeepsCursors := by
  unfold fetchChunk
  dsimp only
  repeat' split
  all_goals exact State.KeepsCursors.refl u

theorem fetchSoi_keeps (u : State) : (fetchSoi u).Leaves u.KeepsCursors := by
  unfold fetchSoi
  repeat' split
  all_goals exact State.KeepsCursors.refl u

theorem fetchMarker_keeps (u : State) : (fetchMarker u).Leaves u.KeepsCursors := by
  unfold fetchMarker
  dsimp only
  repeat' split
  all_goals exact State.KeepsCursors.refl u

/-- A restart marker drops the bits of JBR that are left (R384). -/
theorem fetchRestart_keeps (u : State) : (fetchRestart u).Leaves u.KeepsCursors := by
  have hdropped : u.Reads { u with jbr := { u.jbr with cnt := 0 } } := reads_jbr fun _ => Nat.zero_le 8
  unfold fetchRestart
  dsimp only
  repeat' split
  all_goals exact hdropped.keeps

theorem fetch_keeps (s : State) : (fetch s).Leaves s.KeepsCursors := by
  have h := State.KeepsCursors.refl s
  unfold fetch
  cases s.point with
  | idle | litlenSym | distSym | zlibHdr | pngIhdr | pngCheck | pngRow | pngConvert => exact h
  | blockHdr | stored | dynHdr => exact (readBits_reads _ s).fetchedReads
  | clen => exact fetchSymbol_keeps _ _ s
  | litlenCode =>
    dsimp only
    split
    · rw [fixedLitCode_eq]
      exact (readBitsReversed_reads _ s).fetchedReads
    · exact fetchSymbol_keeps _ _ s
  | distCode =>
    dsimp only
    split
    · exact (readBitsReversed_reads _ s).fetchedReads
    · exact fetchSymbol_keeps _ _ s
  | pngSignature => exact fetchSignature_keeps s
  | pngChunk => exact fetchChunk_keeps s
  | jpegSoi => exact fetchSoi_keeps s
  | jpegMarker => exact fetchMarker_keeps s
  | jpegRestart => exact fetchRestart_keeps s
  | jpegDc | jpegAc => exact fetchJpegSymbol_keeps _ _ s

/-- Inside a call: what the fetch leaves is run, or the failure of the fetch taken. -/
theorem keeps_runFetched {x : Fetched} (hx : x.Leaves s.KeepsCursors) : Answers s.KeepsCursors (runFetched x) := by
  cases x with
  | element f w u =>
    show Answers s.KeepsCursors (runElement f w u)
    unfold runElement
    split
    · exact (keeps_exec _ u).imp fun _ ht => State.KeepsCursors.trans hx ht
    · trivial
  | fail k u => exact keeps_raise (State.KeepsCursors.tracks hx)
  | refuse r => trivial

/-! The host's operations. -/

theorem keeps_writeRegister (no : Nat) (w : Word) (u : State) : Answers u.KeepsCursors (writeRegister no w u) := by
  have h := State.KeepsCursors.refl u
  refine answers_ite ?_ <| answers_ite h <| answers_ite h <| answers_ite h <| answers_ite h <| answers_ite trivial trivial
  unfold writeCommand
  split
  · exact keeps_exec _ { u with cmd := w.setWidth 8 }
  · trivial

theorem keeps_setBuffer (buf : HostBuf) (i : Nat) (e : Int) (u : State) : u.KeepsCursors (setBuffer buf i e u) := by
  cases buf <;> exact State.KeepsCursors.refl u

/-- Reset binds both cursors to the start of an empty input (R440). -/
theorem keeps_resetCore (u : State) : u.KeepsCursors (resetCore u) :=
  ⟨fun _ => ⟨fun _ => ⟨Nat.zero_le _, fun hbit => absurd rfl hbit⟩, fun _ => Nat.zero_le 8⟩, fun _ _ => nofun⟩

theorem keeps_runHostOp (op : HostOp) (u : State) : Answers u.KeepsCursors (runHostOp op u) := by
  have h := State.KeepsCursors.refl u
  cases op with
  | writeReg no w => exact keeps_writeRegister no w u
  | readReg no =>
    show Answers u.KeepsCursors (readRegister no u)
    unfold readRegister
    split
    · exact h
    · trivial
  | writeInput i b => exact h
  | readBuf buf i =>
    show Answers u.KeepsCursors (readBuffer buf i u)
    unfold readBuffer
    split
    · exact h
    · trivial
  | writeBuf buf i e => exact answers_ite (keeps_setBuffer buf i e u) trivial
  | readOut i =>
    show Answers u.KeepsCursors (readOutput i u)
    unfold readOutput
    split
    · exact h
    · trivial
  | reset => exact keeps_resetCore u

theorem keeps_step (s : State) : Answers s.KeepsCursors (step s) := by
  by_cases hp : s.point = .idle
  · cases hh : s.host with
    | nil =>
      rw [step_of_no_host hp hh]
      exact State.KeepsCursors.refl s
    | cons op rest =>
      rw [step_of_host hp hh]
      exact keeps_runHostOp op { s with host := rest }
  · rw [step_in_call hp]
    exact keeps_runFetched (fetch_keeps s)

/-- Settles O6. A read moves a cursor inside its buffer, a binding or a draw puts it inside a new one; a call that ends well
with BR on `IDAT` would be a `PNG_DECODE`, which gives BR up, and one that fails closes the cursors it used. -/
theorem stepKeepsCursorsInRange : Obligations.StepKeepsCursorsInRange :=
  fun s _ hstep => (keeps_step s).of_next hstep

end Sys2Proof.Machine

/-! SUPPORT. The commands of BR, each with its exact outcome (40_bitreader.md R140 to R149; 60_exceptions.md R402, R407). -/

namespace Sys2Proof.Machine

variable {n : Nat} {s : State}

/-! What is refused (R103, R148). -/

theorem whenBrLive_live (h : s.brLive = true) (k : Out) : whenBrLive s k = k := if_pos h

theorem whenBrLive_closed (h : s.brLive = false) (k : Out) : whenBrLive s k = .refused .cursorAfterFailure :=
  if_neg (Bool.eq_false_iff.1 h)

theorem whenBitCount_within (h : 1 ≤ s.arg0.toNat ∧ s.arg0.toNat ≤ 32) (k : Out) : whenBitCount s k = k := if_pos h

theorem whenBitCount_outside (h : s.arg0.toNat = 0 ∨ 32 < s.arg0.toNat) (k : Out) :
    whenBitCount s k = .refused .bitCountOutOfRange :=
  if_neg (by omega)

/-- What the commands of BR do when taken with the cursor open (R140 to R146). -/
theorem exec_brReadbits (hr : s.Ready) (hl : s.brLive = true) : exec .brReadbits s = whenBitCount s
    ((readBits s.arg0.toNat (beginCall .reader s)).run fun v t => .next (endValue v t)) := by
  rw [exec, execBrReadbits, whenIdle_ready hr, whenBrLive_live hl]

theorem exec_brReadbit (hr : s.Ready) (hl : s.brLive = true) :
    exec .brReadbit s = (readBits 1 (beginCall .reader s)).run fun v t => .next (endValue v t) := by
  rw [exec, execBrReadbit, whenIdle_ready hr, whenBrLive_live hl]

theorem exec_brReadbitsRev (hr : s.Ready) (hl : s.brLive = true) : exec .brReadbitsRev s = whenBitCount s
    ((readBitsReversed s.arg0.toNat (beginCall .reader s)).run fun v t => .next (endValue v t)) := by
  rw [exec, execBrReadbitsRev, whenIdle_ready hr, whenBrLive_live hl]

theorem exec_brAlign (hr : s.Ready) (hl : s.brLive = true) :
    exec .brAlign s = .next (endOk (alignToByte (beginCall .reader s))) := by
  rw [exec, execBrAlign, whenIdle_ready hr, whenBrLive_live hl]

theorem exec_brReadbytes (hr : s.Ready) (hl : s.brLive = true) :
    exec .brReadbytes s = (readBytes s.arg0.toNat (beginCall .reader s)).run fun bytes t =>
      .next (endOk { t with out := bytes, resLen := resLenOf bytes.length }) := by
  rw [exec, execBrReadbytes, whenIdle_ready hr, whenBrLive_live hl]

/-- A command of BR that fails closes both cursors (R103, R407; log 8). -/
theorem failsClosed_reader (s : State) (b : Br) (k : FailKind) :
    FailsClosed (raise k { beginCall .reader s with br := b }) s k :=
  ⟨_, rfl, failedFrom_failCall ⟨rfl, rfl, rfl, rfl, rfl, rfl, rfl, rfl⟩ rfl rfl rfl rfl,
    Bool.and_false _, Bool.and_false _⟩

/-! Bits. The start of the call moves nothing, so the bits are those of the state before it. -/

/-- The state after `n` bits read with result `v`. -/
def State.afterBits (n v : Nat) (s : State) : State :=
  { brSeek (brPos s + n) s.afterOk with resValue := BitVec.ofNat 32 v }

theorem readBits_command_enough (h : n ≤ brUnread s) :
    ((readBits n (beginCall .reader s)).run fun v t => .next (endValue v t)) =
      .next (s.afterBits n (bitsLsb s (brPos s) n)) := by
  rw [readBits_of_le (s := beginCall .reader s) h, bitsLsb_congr (s := beginCall .reader s) (t := s) rfl]
  rfl

theorem readBits_command_short (h : brUnread s < n) :
    FailsClosed ((readBits n (beginCall .reader s)).run fun v t => .next (endValue v t)) s .truncatedStream := by
  rw [readBits_short (s := beginCall .reader s) h]
  exact failsClosed_reader s s.br _

theorem readBitsReversed_command_enough (h : n ≤ brUnread s) :
    ((readBitsReversed n (beginCall .reader s)).run fun v t => .next (endValue v t)) =
      .next (s.afterBits n (bitsMsb s (brPos s) n)) := by
  rw [readBitsReversed_of_le (s := beginCall .reader s) h, bitsMsb_congr (s := beginCall .reader s) (t := s) rfl]
  rfl

theorem readBitsReversed_command_short (h : brUnread s < n) :
    FailsClosed ((readBitsReversed n (beginCall .reader s)).run fun v t => .next (endValue v t)) s .truncatedStream := by
  rw [readBitsReversed_short (s := beginCall .reader s) h]
  exact failsClosed_reader s s.br _

/-- A number as a result word, bit by bit. -/
theorem getLsbD_word {i : Nat} (h : i < 32) (v : Nat) : (BitVec.ofNat 32 v).getLsbD i = v.testBit i := by
  rw [BitVec.getLsbD_ofNat, decide_eq_true h, Bool.true_and]

theorem bitsLsb_one (s : State) (p : Nat) : bitsLsb s p 1 = (brBit s p).toNat := by simp [bitsLsb]

/-- Settles O21. The outcome of each command is a read at the position; bit by bit the numbers read are the stream's. -/
theorem bitReadsReturnTheNextBits : Obligations.BitReadsReturnTheNextBits := by
  intro s hr hl
  have hbits := exec_brReadbits hr hl
  have hrev := exec_brReadbitsRev hr hl
  have hbit := exec_brReadbit hr hl
  refine ⟨fun n hn h1 h32 => ?_, fun hu => ?_, fun hu => ?_, fun hn => ?_⟩
  · rw [whenBitCount_within (by omega), hn] at hbits hrev
    rw [hbits, hrev]
    refine ⟨fun hu => ⟨⟨_, readBits_command_enough hu, fun i hi => ?_⟩,
      ⟨_, readBitsReversed_command_enough hu, fun i hi => ?_⟩⟩,
      fun hu => ⟨readBits_command_short hu, readBitsReversed_command_short hu⟩⟩
    · rw [getLsbD_word hi, bitsLsb_testBit]
    · rw [getLsbD_word hi, bitsMsb_testBit]
  · rw [hbit, readBits_command_enough hu, bitsLsb_one]
    rfl
  · rw [hbit]
    exact readBits_command_short (hu ▸ Nat.zero_lt_one)
  · rw [hbits, hrev, whenBitCount_outside hn, whenBitCount_outside hn]
    exact ⟨rfl, rfl⟩

/-! Bytes. -/

/-- The bytes from the next byte boundary on, where the buffer has them (R146). -/
theorem readBytes_of_le (h : n ≤ s.br.len - (brPos s + 7) / 8) :
    readBytes n s = .ok ((List.range n).map fun k => brByte s ((brPos s + 7) / 8 + k))
      { s with br := { s.br with bytePos := (brPos s + 7) / 8 + n, bitPos := 0#3 } } := by
  unfold readBytes
  rw [alignToByte_eq]
  exact if_neg (Nat.not_lt.2 h)

theorem readBytes_short (h : s.br.len - (brPos s + 7) / 8 < n) : readBytes n s = .fail .truncatedStream
    { s with br := { s.br with bytePos := (brPos s + 7) / 8, bitPos := 0#3 } } := by
  unfold readBytes
  rw [alignToByte_eq]
  exact if_pos h

theorem resLenOf_toNat (v : Word) : resLenOf v.toNat = BitVec.ofNat 32 v.toNat := if_pos v.isLt

/-- Settles O22. Alignment rounds the position up to a byte boundary, and the bytes are read from there. -/
theorem alignAndReadBytesStartAtTheNextByte : Obligations.AlignAndReadBytesStartAtTheNextByte := by
  intro s hr hl q n
  refine ⟨?_, fun hn => ?_, fun hn => ?_⟩
  · rw [exec_brAlign hr hl, alignToByte_eq]
    rfl
  · rw [exec_brReadbytes hr hl, readBytes_of_le (s := beginCall .reader s) hn, Res.run, List.length_map,
      List.length_range, resLenOf_toNat]
    rfl
  · rw [exec_brReadbytes hr hl, readBytes_short (s := beginCall .reader s) hn]
    exact failsClosed_reader s _ _

/-- Settles O23. The test of the cursor comes before anything else that a command which continues from it does. -/
theorem closedCursorsAreRefused : Obligations.ClosedCursorsAreRefused := by
  intro s hr
  refine ⟨?_, fun hl i hi => ?_, fun hl => ?_⟩
  · rw [exec, execBrReset, whenIdle_ready hr]
    rfl
  · have hclosed (k : Out) : whenIdle s (whenBrLive s k) = .refused .cursorAfterFailure := by
      rw [whenIdle_ready hr, whenBrLive_closed hl]
    simp only [List.mem_cons, List.not_mem_nil, or_false] at hi
    rcases hi with rfl | rfl | rfl | rfl | rfl | rfl <;> exact hclosed _
  · rw [exec, execJcBlock, whenIdle_ready hr, if_pos hl]

end Sys2Proof.Machine

/-! SUPPORT. The three commands of HUF, each with its exact outcome (41_huffman.md R161, R165, R170, R171). -/

namespace Sys2Proof.Machine

variable {s : State} {t : Tree}

/-! The builds. -/

/-- What the builds do when taken (R161, R165). -/
theorem exec_hufBuild (hr : s.Ready) : exec .hufBuild s =
    if s.arg0.toNat < 1 ∨ 288 < s.arg0.toNat ∨ inLength s < s.arg0.toNat then .refused .operandOutOfRange
    else if admitted (inputLengths s) 15 then
      .next (endOk (releaseHuf { beginCall .plain s with tUser := buildTree (inputLengths s) 15 }))
    else .refused .lengthsNotAdmitted := by
  rw [exec, execHufBuild, whenIdle_ready hr]

theorem exec_hufBuildFixed (hr : s.Ready) : exec .hufBuildFixed s =
    .next (endOk (releaseHuf { beginCall .plain s with tFixLL := fixedLitTree, tFixD := fixedDistTree })) := by
  rw [exec, execHufBuildFixed, whenIdle_ready hr]

/-- The code lengths are the input bytes one by one (R161). -/
theorem inputLengths_eq (s : State) : inputLengths s = (List.range s.arg0.toNat).map fun k => (inByte s k).toNat := by
  simp only [inputLengths, inBytes, List.map_map, Function.comp_def, Nat.zero_add]

/-- Writing the fixed trees where they already stand changes nothing (R28). -/
theorem State.Constants.fixedTrees_eq (h : s.Constants) :
    { s with tFixLL := fixedLitTree, tFixD := fixedDistTree } = s := by
  obtain ⟨-, hll, hd⟩ := h
  rw [← hll, ← hd]

/-- Settles O24. The range of `N` is tested before the lengths; the fixed slots are overwritten with what they hold. -/
theorem hufBuildsStoreTheirTrees : Obligations.HufBuildsStoreTheirTrees := by
  intro s hr
  have hbuild := exec_hufBuild hr
  refine ⟨fun h1 h288 hin => ?_, fun hout => ?_, fun hc => ?_⟩
  · rw [if_neg (by omega), inputLengths_eq] at hbuild
    refine ⟨fun hadm => ?_, fun hadm => ?_⟩
    · rw [hbuild, if_pos hadm]
      rfl
    · rw [hbuild, if_neg (Bool.eq_false_iff.1 hadm)]
  · rw [hbuild, if_pos (by omega)]
  · have hfixed : { beginCall .plain s with tFixLL := fixedLitTree, tFixD := fixedDistTree } = beginCall .plain s :=
      State.Constants.fixedTrees_eq (s := beginCall .plain s) hc
    rw [exec_hufBuildFixed hr, hfixed]
    rfl

/-! `HUF_DECODE`. -/

/-- What `HUF_DECODE` does when taken with the cursor open (R170). -/
theorem exec_hufDecode (hr : s.Ready) (hl : s.brLive = true) (ht : userSlot s s.arg0.toNat = some t) :
    exec .hufDecode s = if t.valid then (decodeSymbol t (beginCall .reader s)).run fun v u => .next (endValue v u)
      else .refused .treeNotValid := by
  rw [exec, execHufDecode, whenIdle_ready hr, whenBrLive_live hl, ht]

theorem userSlot_none {n : Nat} (h0 : n ≠ 0) (h1 : n ≠ 1) (h5 : n ≠ 5) : userSlot s n = none := by
  rw [userSlot, if_neg h0, if_neg h1, if_neg h5]

/-- Bits that are a code, all of them unread, are decoded to its symbol and no more is read (R170). -/
theorem decodeSymbol_of_code {n v : Nat} (hn : n ≤ brUnread s) (h : treeCode t.nodes 0 (nextBits s n) = some v) :
    decodeSymbol t s = .ok v (brSeek (brPos s + n) s) := by
  rw [decodeSymbol, walkTree_of_code t.nodes (brBit s) n _ 0 _ v hn h]

/-- The bit after a path is read, and then its child is missing (R171). -/
theorem decodeSymbol_of_missing {n m : Nat} (hn : n < brUnread s) (h : treePath t.nodes 0 (nextBits s n) = some m)
    (hc : childOf t.nodes m (brBit s (brPos s + n)) = none) :
    decodeSymbol t s = .fail .invalidCode (brSeek (brPos s + n + 1) s) := by
  obtain ⟨left, hleft⟩ : ∃ left, brUnread s = n + (left + 1) := ⟨brUnread s - n - 1, by omega⟩
  rw [decodeSymbol, hleft, walkTree_of_path t.nodes (brBit s) n _ 0 _ m h, walkTree, hc]

/-- A path that uses up the bits leaves none to go on with (R171). -/
theorem decodeSymbol_of_exhausted {m : Nat} (h : treePath t.nodes 0 (nextBits s (brUnread s)) = some m) :
    decodeSymbol t s = .fail .truncatedStream s := by
  have hwalk := walkTree_of_path t.nodes (brBit s) (brUnread s) 0 0 (brPos s) m h
  rw [Nat.add_zero] at hwalk
  rw [decodeSymbol, hwalk, walkTree]

/-- Settles O26. The start of the call moves nothing, so the walk is that of the state before it. -/
theorem hufDecodeReturnsTheSymbol : Obligations.HufDecodeReturnsTheSymbol := by
  refine ⟨fun s t hr hl ht => ?_, fun s hr hl h0 h1 h5 => ?_⟩
  · have hdec := exec_hufDecode hr hl ht
    refine ⟨fun hvalid => ?_, fun hvalid => ?_⟩
    · rw [if_pos hvalid] at hdec
      refine ⟨fun n v hn hcode => ?_, fun n m hpath => ⟨fun hn hmiss => ?_, fun hn => ?_⟩⟩
      · rw [hdec, decodeSymbol_of_code (s := beginCall .reader s) hn hcode]
        rfl
      · rw [hdec, decodeSymbol_of_missing (s := beginCall .reader s) hn hpath hmiss]
        exact failsClosed_reader s _ _
      · subst hn
        rw [hdec, decodeSymbol_of_exhausted (s := beginCall .reader s) hpath]
        exact failsClosed_reader s s.br _
    · rw [hdec, if_neg (Bool.eq_false_iff.1 hvalid)]
  · rw [exec, execHufDecode, whenIdle_ready hr, whenBrLive_live hl, userSlot_none h0 h1 h5]

end Sys2Proof.Machine

/-! SUPPORT. Codes as bits (41_huffman.md R160, R163): when one code begins another. -/

namespace Sys2Proof.Machine

/-- The `l` low bits of `c`, most significant first: what R163 inserts. -/
def codeBits (c l : Nat) : List Bool := (List.range l).map fun i => c.testBit (l - 1 - i)

theorem canonicalBits_eq (lens : List Nat) (k : Nat) :
    canonicalBits lens k = codeBits (canonicalCode lens k) (lens.getD k 0) := rfl

@[simp] theorem codeBits_length (c l : Nat) : (codeBits c l).length = l := by simp [codeBits]

@[simp] theorem codeBits_zero (c : Nat) : codeBits c 0 = [] := rfl

theorem codeBits_succ (c l : Nat) : codeBits c (l + 1) = c.testBit l :: codeBits c l := by
  simp only [codeBits, List.range_succ_eq_map, List.map_cons, List.map_map]
  congr 1
  exact List.map_congr_left fun i _ => congrArg c.testBit (by simp; omega)

theorem codeBits_getElem? {c l i : Nat} (h : i < l) : (codeBits c l)[i]? = some (c.testBit (l - 1 - i)) := by
  simp [codeBits, h]

/-- A code that begins another one is its high bits, as a number. -/
theorem codeBits_prefix {a b i j : Nat} (ha : a < 2 ^ i) (hb : b < 2 ^ j) (h : codeBits a i <+: codeBits b j) :
    i ≤ j ∧ a = b / 2 ^ (j - i) := by
  have hij : i ≤ j := by simpa using h.length_le
  refine ⟨hij, Nat.eq_of_testBit_eq fun t => ?_⟩
  rw [Nat.testBit_div_two_pow]
  rcases Nat.lt_or_ge t i with ht | ht
  · have hbit : (codeBits a i)[i - 1 - t]? = (codeBits b j)[i - 1 - t]? := by
      obtain ⟨tail, htail⟩ := h
      rw [← htail, List.getElem?_append_left (by simp; omega)]
    rw [codeBits_getElem? (by omega), codeBits_getElem? (by omega), Option.some.injEq] at hbit
    rwa [show i - 1 - (i - 1 - t) = t by omega, show j - 1 - (i - 1 - t) = t + (j - i) by omega] at hbit
  · have hle (u v : Nat) (huv : u ≤ v) : 2 ^ u ≤ 2 ^ v := Nat.pow_le_pow_right (by omega) huv
    rw [Nat.testBit_lt_two_pow (Nat.lt_of_lt_of_le ha (hle i t ht)),
      Nat.testBit_lt_two_pow (Nat.lt_of_lt_of_le hb (hle j (t + (j - i)) (by omega)))]

end Sys2Proof.Machine

/-! SUPPORT. Canonical codes (41_huffman.md R160 to R164): each fits its length, and none begins another. -/

namespace Sys2Proof.Machine

variable {lens : List Nat} {m l k i j : Nat}

/-- The code that the next symbol of length `l` gets after the first `k` symbols (R163). -/
def nextCode (lens : List Nat) (l k : Nat) : Nat := firstCode lens l + (lens.take k).count l

theorem canonicalCode_eq (lens : List Nat) (k : Nat) : canonicalCode lens k = nextCode lens (lens.getD k 0) k := rfl

@[simp] theorem nextCode_zero (lens : List Nat) (l : Nat) : nextCode lens l 0 = firstCode lens l := by simp [nextCode]

/-- A symbol takes one code of its own length (R163). -/
theorem nextCode_succ (hk : k < lens.length) :
    nextCode lens l (k + 1) = nextCode lens l k + if lens.getD k 0 = l then 1 else 0 := by
  rw [nextCode, List.take_succ_eq_append_getElem hk, List.count_append, ← Nat.add_assoc, nextCode]
  simp [List.count_cons, hk]

theorem blCount_of_ne_zero (hl : l ≠ 0) : blCount lens l = lens.count l := if_neg hl

/-- The codes of a length that have been given away are among those counted for it. -/
theorem nextCode_le (hl : l ≠ 0) : nextCode lens l k ≤ firstCode lens l + blCount lens l := by
  rw [nextCode, blCount_of_ne_zero hl]
  exact Nat.add_le_add_left ((List.take_sublist k lens).count_le l) _

theorem nextCode_mono (h : i ≤ j) : nextCode lens l i ≤ nextCode lens l j :=
  Nat.add_le_add_left ((List.take_sublist_take_left h).count_le l) _

/-- A code is below the next code of its length after its symbol. -/
theorem canonicalCode_lt (hk : k < lens.length) (h : k + 1 ≤ j) :
    canonicalCode lens k < nextCode lens (lens.getD k 0) j :=
  calc canonicalCode lens k < canonicalCode lens k + 1 := Nat.lt_succ_self _
    _ = nextCode lens (lens.getD k 0) (k + 1) := by rw [nextCode_succ hk, if_pos rfl, canonicalCode_eq]
    _ ≤ nextCode lens (lens.getD k 0) j := nextCode_mono h

theorem canonicalCode_lt_last (hk : k < lens.length) (hl : lens.getD k 0 ≠ 0) :
    canonicalCode lens k < firstCode lens (lens.getD k 0) + blCount lens (lens.getD k 0) :=
  Nat.lt_of_lt_of_le (canonicalCode_lt hk (Nat.le_refl _)) (nextCode_le hl)

theorem firstCode_le_canonicalCode (lens : List Nat) (k : Nat) :
    firstCode lens (lens.getD k 0) ≤ canonicalCode lens k := Nat.le_add_right _ _

/-- The codes of greater length start above everything that begins with a code of length `l` (R162). -/
theorem firstCode_above (lens : List Nat) (l d : Nat) :
    (firstCode lens l + blCount lens l) * 2 ^ (d + 1) ≤ firstCode lens (l + (d + 1)) := by
  induction d with
  | zero => exact Nat.le_refl _
  | succ d ih =>
    calc (firstCode lens l + blCount lens l) * 2 ^ (d + 1 + 1)
        = (firstCode lens l + blCount lens l) * 2 ^ (d + 1) * 2 := by rw [Nat.pow_succ, Nat.mul_assoc]
      _ ≤ (firstCode lens (l + (d + 1)) + blCount lens (l + (d + 1))) * 2 := by omega

/-! The Kraft sum bounds the codes (R164). -/

theorem kraftSum_nil (m : Nat) : kraftSum [] m = 0 := rfl

theorem kraftSum_cons (l : Nat) (lens : List Nat) (m : Nat) :
    kraftSum (l :: lens) m = (if l = 0 then 0 else 2 ^ (m - l)) + kraftSum lens m := rfl

theorem kraftSum_append (xs ys : List Nat) (m : Nat) : kraftSum (xs ++ ys) m = kraftSum xs m + kraftSum ys m := by
  simp [kraftSum]

theorem kraftSum_replicate (n : Nat) (hl : l ≠ 0) (m : Nat) : kraftSum (List.replicate n l) m = n * 2 ^ (m - l) := by
  simp [kraftSum, hl]

/-- Leaving symbols out does not raise the sum. -/
theorem kraftSum_filter_le (p : Nat → Bool) (lens : List Nat) (m : Nat) :
    kraftSum (lens.filter p) m ≤ kraftSum lens m := by
  induction lens with
  | nil => exact Nat.le_refl _
  | cons l lens ih =>
    rw [List.filter_cons, kraftSum_cons]
    split
    · rw [kraftSum_cons]; omega
    · omega

/-- The symbols of one more length add their own part to the sum. -/
theorem kraftSum_filter_succ (lens : List Nat) (m l : Nat) :
    kraftSum (lens.filter (· ≤ l + 1)) m = kraftSum (lens.filter (· ≤ l)) m +
      lens.count (l + 1) * 2 ^ (m - (l + 1)) := by
  induction lens with
  | nil => simp [kraftSum_nil]
  | cons x lens ih =>
    rcases Nat.lt_trichotomy x (l + 1) with hx | rfl | hx
    · rw [List.filter_cons_of_pos (by simp; omega), List.filter_cons_of_pos (by simp; omega), kraftSum_cons,
        kraftSum_cons, List.count_cons_of_ne (by omega), ih, Nat.add_assoc]
    · rw [List.filter_cons_of_pos (by simp), List.filter_cons_of_neg (by simp), kraftSum_cons,
        if_neg (Nat.succ_ne_zero l), List.count_cons_self, ih, Nat.succ_mul]
      omega
    · rw [List.filter_cons_of_neg (by simp; omega), List.filter_cons_of_neg (by simp; omega),
        List.count_cons_of_ne (by omega), ih]

/-- The codes of all lengths up to `l`, as the part they take of `2^m`, are the Kraft sum of these lengths. -/
theorem firstCode_add_blCount_mul (hl : l ≤ m) :
    (firstCode lens l + blCount lens l) * 2 ^ (m - l) = kraftSum (lens.filter (· ≤ l)) m := by
  induction l with
  | zero =>
    have hzero : ∀ x ∈ lens.filter (· ≤ 0), x = 0 := by simp
    rw [List.eq_replicate_of_mem hzero]
    simp [firstCode, blCount, kraftSum]
  | succ l ih =>
    rw [kraftSum_filter_succ, ← ih (by omega), Nat.add_mul, firstCode, blCount_of_ne_zero (Nat.succ_ne_zero l),
      Nat.mul_assoc, ← Nat.pow_succ', show (m - (l + 1)).succ = m - l by omega]

theorem admitted_iff : admitted lens m = true ↔ (∀ l ∈ lens, l ≤ m) ∧ kraftSum lens m ≤ 2 ^ m := by
  simp [admitted]

theorem le_of_admitted (h : admitted lens m = true) (k : Nat) : lens.getD k 0 ≤ m := by
  rw [List.getD_eq_getElem?_getD]
  cases hk : lens[k]? with
  | none => exact Nat.zero_le m
  | some l => exact (admitted_iff.1 h).1 l (List.mem_of_getElem? hk)

/-- Where the array is admitted every code fits its length (R164). -/
theorem canonicalCode_lt_two_pow (h : admitted lens m = true) (hk : k < lens.length) (hl : lens.getD k 0 ≠ 0) :
    canonicalCode lens k < 2 ^ lens.getD k 0 := by
  have hlm := le_of_admitted h k
  have hlast := canonicalCode_lt_last hk hl
  generalize lens.getD k 0 = l at *
  have hsum : (firstCode lens l + blCount lens l) * 2 ^ (m - l) ≤ 2 ^ l * 2 ^ (m - l) :=
    calc (firstCode lens l + blCount lens l) * 2 ^ (m - l)
      _ = kraftSum (lens.filter (· ≤ l)) m := firstCode_add_blCount_mul hlm
      _ ≤ kraftSum lens m := kraftSum_filter_le _ lens m
      _ ≤ 2 ^ m := (admitted_iff.1 h).2
      _ = 2 ^ l * 2 ^ (m - l) := by rw [← Nat.pow_add, Nat.add_sub_of_le hlm]
  exact Nat.lt_of_lt_of_le hlast (Nat.le_of_mul_le_mul_right hsum (Nat.two_pow_pos _))

/-- The canonical code of one used symbol does not begin that of another (R160). -/
theorem canonicalBits_prefix (h : admitted lens m = true) (hi : i < lens.length) (hj : j < lens.length)
    (hli : lens.getD i 0 ≠ 0) (hlj : lens.getD j 0 ≠ 0) (hp : canonicalBits lens i <+: canonicalBits lens j) :
    i = j := by
  obtain ⟨hle, heq⟩ := codeBits_prefix (canonicalCode_lt_two_pow h hi hli) (canonicalCode_lt_two_pow h hj hlj) hp
  rcases Nat.lt_or_ge (lens.getD i 0) (lens.getD j 0) with hlt | hge
  · obtain ⟨d, hd⟩ : ∃ d, lens.getD j 0 = lens.getD i 0 + (d + 1) := ⟨lens.getD j 0 - lens.getD i 0 - 1, by omega⟩
    have hlast := canonicalCode_lt_last hi hli
    have habove : firstCode lens (lens.getD i 0) + blCount lens (lens.getD i 0) ≤
        canonicalCode lens j / 2 ^ (d + 1) := by
      rw [Nat.le_div_iff_mul_le (Nat.two_pow_pos _)]
      exact Nat.le_trans (firstCode_above lens _ d) (hd ▸ firstCode_le_canonicalCode lens j)
    rw [hd, Nat.add_sub_cancel_left] at heq
    omega
  · have hsame : lens.getD i 0 = lens.getD j 0 := Nat.le_antisymm hle hge
    have hcode : canonicalCode lens i = canonicalCode lens j := by
      rw [heq, hsame, Nat.sub_self, Nat.pow_zero, Nat.div_one]
    rcases Nat.lt_trichotomy i j with hij | hij | hij
    · have := canonicalCode_lt hi hij
      rw [hsame, ← canonicalCode_eq, hcode] at this
      omega
    · exact hij
    · have := canonicalCode_lt hj hij
      rw [← hsame, ← canonicalCode_eq, hcode] at this
      omega

end Sys2Proof.Machine

/-! SUPPORT. The arena of a tree slot (10_state.md R26, R27): the node and the label that bits lead to, and what
`insert` of 41_huffman.md R163 makes of them. -/

namespace Sys2Proof.Machine

variable {nodes : List Node} {n k c s v i : Nat} {b d : Bool} {p q w : List Bool} {x : Node}

/-- What a node is: `some v` for a leaf of the symbol `v`, `none` for an internal node. -/
def Node.label (x : Node) : Option Nat := if x.kind = .leaf then some x.sym else none

@[simp] theorem emptyNode_label : emptyNode.label = none := rfl

@[simp] theorem leafNode_label (s : Nat) : (leafNode s).label = some s := rfl

/-- The label of node `n`, if the arena has it. -/
def labelOf (nodes : List Node) (n : Nat) : Option (Option Nat) := nodes[n]?.map Node.label

/-- The node that bits lead to from a node. -/
def nodeAt (nodes : List Node) (n : Nat) (q : List Bool) : Option Nat := q.foldlM (childOf nodes) n

/-- The label of the node that bits lead to from a node. -/
def labelAt (nodes : List Node) (n : Nat) (q : List Bool) : Option (Option Nat) :=
  (nodeAt nodes n q).bind (labelOf nodes)

@[simp] theorem nodeAt_nil (nodes : List Node) (n : Nat) : nodeAt nodes n [] = some n := rfl

theorem nodeAt_cons (nodes : List Node) (n : Nat) (b : Bool) (q : List Bool) :
    nodeAt nodes n (b :: q) = (childOf nodes n b).bind fun c => nodeAt nodes c q := rfl

theorem nodeAt_append (nodes : List Node) (n : Nat) (p q : List Bool) :
    nodeAt nodes n (p ++ q) = (nodeAt nodes n p).bind fun k => nodeAt nodes k q := List.foldlM_append

theorem nodeAt_concat (nodes : List Node) (n : Nat) (q : List Bool) (d : Bool) :
    nodeAt nodes n (q ++ [d]) = (nodeAt nodes n q).bind fun k => childOf nodes k d := by
  rw [nodeAt_append]
  simp [nodeAt_cons]

@[simp] theorem labelAt_nil (nodes : List Node) (n : Nat) : labelAt nodes n [] = labelOf nodes n := rfl

theorem labelAt_cons_none (h : childOf nodes n b = none) : labelAt nodes n (b :: q) = none := by
  rw [labelAt, nodeAt_cons, h]
  rfl

theorem labelAt_cons_some (h : childOf nodes n b = some c) : labelAt nodes n (b :: q) = labelAt nodes c q := by
  rw [labelAt, nodeAt_cons, h]
  rfl

theorem labelAt_of_nodeAt (h : nodeAt nodes n q = some k) : labelAt nodes n q = labelOf nodes k := by
  rw [labelAt, h, Option.bind_some]

theorem labelOf_of_lt (h : n < nodes.length) : ∃ l, labelOf nodes n = some l :=
  ⟨nodes[n].label, by rw [labelOf, List.getElem?_eq_getElem h]; rfl⟩

theorem labelOf_of_ge (h : nodes.length ≤ n) : labelOf nodes n = none := by
  rw [labelOf, List.getElem?_eq_none h]
  rfl

theorem lt_of_labelOf {l : Option Nat} (h : labelOf nodes n = some l) : n < nodes.length := by
  rcases Nat.lt_or_ge n nodes.length with hlt | hge
  · exact hlt
  · rw [labelOf_of_ge hge] at h
    cases h

/-! An arena that is a tree. -/

/-- A path is taken apart at its last bit. -/
theorem path_induction {motive : List Bool → Prop} (nil : motive [])
    (concat : ∀ q d, motive q → motive (q ++ [d])) (q : List Bool) : motive q := by
  rw [← List.reverse_reverse q]
  induction q.reverse with
  | nil => exact nil
  | cons d r ih =>
    rw [List.reverse_cons]
    exact concat _ d ih

/-- The arena is a tree rooted at node 0, and its leaves have no children. -/
structure Arena (nodes : List Node) : Prop where
  hasRoot : 0 < nodes.length
  child_lt : ∀ {n b c}, childOf nodes n b = some c → c < nodes.length
  child_ne_root : ∀ {n b}, childOf nodes n b ≠ some 0
  parent_unique : ∀ {n k b d c}, childOf nodes n b = some c → childOf nodes k d = some c → n = k ∧ b = d
  parent_inner : ∀ {n b c}, childOf nodes n b = some c → labelOf nodes n = some none

namespace Arena

theorem nodeAt_lt (h : Arena nodes) (hq : nodeAt nodes 0 q = some n) : n < nodes.length := by
  induction q using path_induction with
  | nil => exact Option.some.inj hq ▸ h.hasRoot
  | concat q d =>
    rw [nodeAt_concat, Option.bind_eq_some_iff] at hq
    obtain ⟨k, -, hk⟩ := hq
    exact h.child_lt hk

/-- One node, one path. -/
theorem path_unique (h : Arena nodes) (hp : nodeAt nodes 0 p = some n) (hq : nodeAt nodes 0 q = some n) : p = q := by
  have root_only {r : List Bool} {e : Bool} : nodeAt nodes 0 (r ++ [e]) ≠ some 0 := by
    intro hr
    rw [nodeAt_concat, Option.bind_eq_some_iff] at hr
    obtain ⟨k, -, hk⟩ := hr
    exact h.child_ne_root hk
  induction p using path_induction generalizing q n with
  | nil =>
    cases Option.some.inj hp
    cases q using path_induction with
    | nil => rfl
    | concat q d => exact absurd hq root_only
  | concat p b ih =>
    cases q using path_induction with
    | nil =>
      cases Option.some.inj hq
      exact absurd hp root_only
    | concat q d =>
      rw [nodeAt_concat, Option.bind_eq_some_iff] at hp hq
      obtain ⟨k, hk, hkn⟩ := hp
      obtain ⟨l, hl, hln⟩ := hq
      obtain ⟨rfl, rfl⟩ := h.parent_unique hkn hln
      rw [ih hk hl]

/-- The code function of a tree is where its leaves are (R27). -/
theorem treeCode_iff (h : Arena nodes) (hn : labelOf nodes n = some none) :
    treeCode nodes n q = some v ↔ labelAt nodes n q = some (some v) := by
  induction q generalizing n with
  | nil => simp [treeCode, hn]
  | cons b q ih =>
    cases hc : childOf nodes n b with
    | none => simp [treeCode, hc, labelAt_cons_none hc]
    | some c =>
      have hlt := h.child_lt hc
      have hx := List.getElem?_eq_getElem hlt
      rw [labelAt_cons_some hc, treeCode, hc]
      simp only [hx]
      by_cases hk : nodes[c].kind = .leaf
      · have hleaf : labelOf nodes c = some (some nodes[c].sym) := by simp [labelOf, hx, Node.label, hk]
        rw [if_pos hk]
        cases q with
        | nil => simp [hleaf]
        | cons d q =>
          have hnone : childOf nodes c d = none := by
            rw [← Option.not_isSome_iff_eq_none, Option.isSome_iff_exists]
            rintro ⟨e, he⟩
            simpa [hleaf] using h.parent_inner he
          simp [labelAt_cons_none hnone]
      · rw [if_neg hk]
        exact ih (by simp [labelOf, hx, Node.label, hk])

end Arena

/-! One more node. -/

/-- The arena with a new node `x`, the child of node `n` on bit `b`. -/
def attach (nodes : List Node) (n : Nat) (b : Bool) (x : Node) : List Node :=
  linkChild (nodes ++ [x]) n b nodes.length

/-- A node as the allocation of R26 makes it. -/
def Node.Fresh (x : Node) : Prop := x.left = none ∧ x.right = none

theorem emptyNode_fresh : emptyNode.Fresh := ⟨rfl, rfl⟩

theorem leafNode_fresh (s : Nat) : (leafNode s).Fresh := ⟨rfl, rfl⟩

theorem insertCode_of_some (h : childOf nodes n (c.testBit i) = some k) (s : Nat) :
    insertCode nodes n c (i + 1) s = insertCode nodes k c i s := by
  rw [insertCode, h]

theorem insertCode_of_none (h : childOf nodes n (c.testBit i) = none) (s : Nat) : insertCode nodes n c (i + 1) s =
    insertCode (attach nodes n (c.testBit i) (if i = 0 then leafNode s else emptyNode)) nodes.length c i s := by
  rw [insertCode, h]
  rfl

theorem attach_eq (hn : n < nodes.length) (b : Bool) (x : Node) : attach nodes n b x =
    (nodes.set n (if b then { nodes[n] with right := some nodes.length }
      else { nodes[n] with left := some nodes.length })) ++ [x] := by
  rw [attach, linkChild, List.getElem?_append_left hn, List.getElem?_eq_getElem hn]
  exact List.set_append_left n _ hn

theorem attach_length (hn : n < nodes.length) : (attach nodes n b x).length = nodes.length + 1 := by
  simp [attach_eq hn]

/-- The new arc is the only change to the arcs. -/
theorem childOf_attach (hn : n < nodes.length) (hx : x.Fresh) (k : Nat) (d : Bool) :
    childOf (attach nodes n b x) k d = if k = n ∧ d = b then some nodes.length else childOf nodes k d := by
  rw [attach_eq hn]
  rcases Nat.lt_trichotomy k nodes.length with hk | rfl | hk
  · rw [childOf, List.getElem?_append_left (by simpa using hk), List.getElem?_set, childOf]
    by_cases hkn : n = k
    · subst hkn
      cases b <;> cases d <;> simp [hn]
    · simp [hkn, Ne.symm hkn]
  · rw [if_neg (show ¬ (nodes.length = n ∧ d = b) by omega)]
    cases d <;> simp [childOf, hx.1, hx.2]
  · rw [if_neg (show ¬ (k = n ∧ d = b) by omega), childOf, childOf, List.getElem?_eq_none (by simp; omega),
      List.getElem?_eq_none (Nat.le_of_lt hk)]

/-- The new label is the only change to the labels. -/
theorem labelOf_attach (hn : n < nodes.length) (k : Nat) :
    labelOf (attach nodes n b x) k = if k = nodes.length then some x.label else labelOf nodes k := by
  rw [attach_eq hn]
  rcases Nat.lt_trichotomy k nodes.length with hk | rfl | hk
  · rw [labelOf, List.getElem?_append_left (by simpa using hk), List.getElem?_set, if_neg (Nat.ne_of_lt hk), labelOf]
    by_cases hkn : n = k
    · subst hkn
      cases b <;> simp [hn, Node.label]
    · rw [if_neg hkn]
  · simp [labelOf]
  · rw [if_neg (Nat.ne_of_gt hk), labelOf_of_ge (by simp; omega), labelOf_of_ge (Nat.le_of_lt hk)]

/-- The arena stays a tree when an internal node gets a child it does not have. -/
theorem arena_attach (h : Arena nodes) (hn : labelOf nodes n = some none) (hb : childOf nodes n b = none)
    (hx : x.Fresh) : Arena (attach nodes n b x) := by
  have hlt := lt_of_labelOf hn
  have hchild {k d c} (hc : childOf (attach nodes n b x) k d = some c) :
      (k = n ∧ d = b ∧ c = nodes.length) ∨ childOf nodes k d = some c := by
    rw [childOf_attach hlt hx] at hc
    split at hc
    · rename_i hkd
      exact .inl ⟨hkd.1, hkd.2, (Option.some.inj hc).symm⟩
    · exact .inr hc
  refine ⟨?_, fun hc => ?_, fun hc => ?_, fun hc hc' => ?_, fun {k d c} hc => ?_⟩
  · rw [attach_length hlt]
    exact Nat.succ_pos _
  · rw [attach_length hlt]
    rcases hchild hc with ⟨-, -, rfl⟩ | hc
    · exact Nat.lt_succ_self _
    · exact Nat.lt_trans (h.child_lt hc) (Nat.lt_succ_self _)
  · rcases hchild hc with ⟨-, -, h0⟩ | hc
    · have := h.hasRoot; omega
    · exact h.child_ne_root hc
  · rcases hchild hc with ⟨rfl, rfl, hlen⟩ | hold <;> rcases hchild hc' with ⟨rfl, rfl, hlen'⟩ | hold'
    · exact ⟨rfl, rfl⟩
    · exact absurd hlen (Nat.ne_of_lt (h.child_lt hold'))
    · exact absurd hlen' (Nat.ne_of_lt (h.child_lt hold))
    · exact h.parent_unique hold hold'
  · have hk : labelOf nodes k = some none := by
      rcases hchild hc with ⟨rfl, -, -⟩ | hc
      · exact hn
      · exact h.parent_inner hc
    rw [labelOf_attach hlt, if_neg (Nat.ne_of_lt (lt_of_labelOf hk)), hk]

/-- The new node is reached by one path, and all others are as before. -/
theorem nodeAt_attach (h : Arena nodes) (hp : nodeAt nodes 0 p = some n) (hb : childOf nodes n b = none) (hx : x.Fresh)
    (q : List Bool) :
    nodeAt (attach nodes n b x) 0 q = if q = p ++ [b] then some nodes.length else nodeAt nodes 0 q := by
  have hlt := h.nodeAt_lt hp
  induction q using path_induction with
  | nil => simp
  | concat q d ih =>
    rw [nodeAt_concat, ih, nodeAt_concat]
    by_cases hq : q = p ++ [b]
    · have hold : nodeAt nodes 0 q = none := by rw [hq, nodeAt_concat, hp, Option.bind_some, hb]
      have hchildless : childOf nodes nodes.length d = none := by
        rw [childOf, List.getElem?_eq_none (Nat.le_refl _)]
      rw [if_pos hq, Option.bind_some, childOf_attach hlt hx, if_neg (by omega), hchildless, hold, if_neg]
      · rfl
      · rw [hq]
        simp
    · rw [if_neg hq]
      cases hk : nodeAt nodes 0 q with
      | none =>
        rw [if_neg]
        · rfl
        · intro heq
          rw [(List.append_inj' heq rfl).1, hp] at hk
          cases hk
      | some k =>
        have hsame : (k = n ∧ d = b) ↔ q ++ [d] = p ++ [b] := by
          rw [← List.concat_eq_append, ← List.concat_eq_append, List.concat_inj]
          refine and_congr_left fun _ => ⟨fun hkn => h.path_unique (hkn ▸ hk) hp, fun hqp => ?_⟩
          rw [hqp, hp] at hk
          exact (Option.some.inj hk).symm
        rw [Option.bind_some, Option.bind_some, childOf_attach hlt hx]
        simp only [hsame]

theorem labelAt_attach (h : Arena nodes) (hp : nodeAt nodes 0 p = some n) (hb : childOf nodes n b = none) (hx : x.Fresh)
    (q : List Bool) :
    labelAt (attach nodes n b x) 0 q = if q = p ++ [b] then some x.label else labelAt nodes 0 q := by
  have hlt := h.nodeAt_lt hp
  rw [labelAt, nodeAt_attach h hp hb hx]
  split
  · rw [Option.bind_some, labelOf_attach hlt, if_pos rfl]
  · rw [labelAt]
    refine Option.bind_congr fun k hk => ?_
    rw [labelOf_attach hlt, if_neg (Nat.ne_of_lt (h.nodeAt_lt hk))]

/-! A whole code. -/

/-- No node stands at `w`, and no leaf on the way to it. -/
def Free (nodes : List Node) (w : List Bool) : Prop :=
  labelAt nodes 0 w = none ∧ ∀ q v, q <+: w → labelAt nodes 0 q ≠ some (some v)

/-- A node on the way to a free place is internal. -/
theorem Free.inner (hw : Free nodes w) (h : Arena nodes) (hq : nodeAt nodes 0 q = some n) (hqw : q <+: w) :
    labelOf nodes n = some none := by
  obtain ⟨l, hl⟩ := labelOf_of_lt (h.nodeAt_lt hq)
  cases l with
  | none => exact hl
  | some v => exact absurd ((labelAt_of_nodeAt hq).trans hl) (hw.2 q v hqw)

theorem Free.nodeAt_eq_none (hw : Free nodes w) (h : Arena nodes) : nodeAt nodes 0 w = none := by
  cases hk : nodeAt nodes 0 w with
  | none => rfl
  | some k => cases hw.1.symm.trans ((labelAt_of_nodeAt hk).trans (hw.inner h hk (List.prefix_refl w)))

/-- So are the nodes that the path to it has passed. -/
theorem Free.passed (hw : Free nodes w) (h : Arena nodes) (hp : nodeAt nodes 0 p = some n) (hpw : p <+: w)
    (hqp : q <+: p) : labelAt nodes 0 q = some none := by
  obtain ⟨k, hk⟩ : ∃ k, nodeAt nodes 0 q = some k := by
    obtain ⟨r, rfl⟩ := hqp
    rw [nodeAt_append, Option.bind_eq_some_iff] at hp
    obtain ⟨k, hk, -⟩ := hp
    exact ⟨k, hk⟩
  exact (labelAt_of_nodeAt hk).trans (hw.inner h hk (hqp.trans hpw))

/-- A place stays free when an internal node is put on the way to it. -/
theorem free_attach (hw : Free nodes w) (h : Arena nodes) (hp : nodeAt nodes 0 p = some n)
    (hb : childOf nodes n b = none) (hne : w ≠ p ++ [b]) : Free (attach nodes n b emptyNode) w := by
  have hlabel := labelAt_attach h hp hb emptyNode_fresh
  refine ⟨by rw [hlabel, if_neg hne, hw.1], fun q v hq => ?_⟩
  rw [hlabel]
  split
  · simp
  · exact hw.2 q v hq

/-- Inserting a code at a free place puts its leaf there and internal nodes on the way, and changes no other label
(R163). Said from the node `n` at `p`, with `i + 1` bits to go. -/
theorem insertCode_labels (h : Arena nodes) (hp : nodeAt nodes 0 p = some n) (hw : w = p ++ codeBits c (i + 1))
    (hfree : Free nodes w) : Arena (insertCode nodes n c (i + 1) s) ∧
    ∀ q, labelAt (insertCode nodes n c (i + 1) s) 0 q =
      if q = w then some (some s) else if q <+: w then some none else labelAt nodes 0 q := by
  induction i generalizing nodes n p with
  | zero =>
    have hpw : p <+: w := hw ▸ List.prefix_append _ _
    replace hw : w = p ++ [c.testBit 0] := hw
    have hnone : childOf nodes n (c.testBit 0) = none := by
      have hnode := hfree.nodeAt_eq_none h
      rwa [hw, nodeAt_concat, hp] at hnode
    rw [insertCode_of_none hnone, if_pos rfl, insertCode]
    refine ⟨arena_attach h (hfree.inner h hp hpw) hnone (leafNode_fresh s), fun q => ?_⟩
    rw [labelAt_attach h hp hnone (leafNode_fresh s), ← hw]
    by_cases hq : q = w
    · rw [if_pos hq, if_pos hq]
      rfl
    rw [if_neg hq, if_neg hq]
    split
    · rename_i hqw
      rw [hw, List.prefix_concat_iff, ← hw] at hqw
      exact hfree.passed h hp hpw (hqw.resolve_left hq)
    · rfl
  | succ i ih =>
    have hpw : p <+: w := hw ▸ List.prefix_append _ _
    rw [codeBits_succ, List.append_cons] at hw
    cases hc : childOf nodes n (c.testBit (i + 1)) with
    | some k =>
      rw [insertCode_of_some hc]
      exact ih h (by rw [nodeAt_concat, hp, Option.bind_some, hc]) hw hfree
    | none =>
      have hlabel := labelAt_attach h hp hc emptyNode_fresh
      have hne : w ≠ p ++ [c.testBit (i + 1)] := by rw [hw, codeBits_succ]; simp
      rw [insertCode_of_none hc, if_neg (Nat.succ_ne_zero i)]
      obtain ⟨harena, hall⟩ := ih (arena_attach h (hfree.inner h hp hpw) hc emptyNode_fresh)
        (by rw [nodeAt_attach h hp hc emptyNode_fresh, if_pos rfl]) hw (free_attach hfree h hp hc hne)
      refine ⟨harena, fun q => ?_⟩
      rw [hall, hlabel]
      by_cases hq : q = p ++ [c.testBit (i + 1)]
      · have hqw : q <+: w := hq ▸ hw ▸ List.prefix_append _ _
        rw [if_pos hqw, if_pos hqw]
      · rw [if_neg hq]

/-! The codes that an arena has. -/

/-- The arena is a tree that has exactly the codes of `code`, and no node that leads to none of them. -/
structure Represents (nodes : List Node) (code : List Bool → Nat → Prop) : Prop where
  arena : Arena nodes
  root : labelAt nodes 0 [] = some none
  leaf : ∀ {w v}, labelAt nodes 0 w = some (some v) ↔ code w v
  inner : ∀ {q}, labelAt nodes 0 q = some none → q = [] ∨ ∃ w v, code w v ∧ q <+: w

namespace Represents

variable {code code' : List Bool → Nat → Prop}

theorem congr (h : Represents nodes code) (hc : ∀ w v, code w v ↔ code' w v) : Represents nodes code' := by
  have heq : code = code' := funext fun w => funext fun v => propext (hc w v)
  rwa [← heq]

/-- The code function of the tree (R27). -/
theorem treeCode_iff (h : Represents nodes code) : treeCode nodes 0 w = some v ↔ code w v :=
  (h.arena.treeCode_iff h.root).trans h.leaf

/-- The root alone has no codes. -/
theorem root_alone : Represents [emptyNode] fun _ _ => False := by
  have hchild (k : Nat) (d : Bool) : childOf [emptyNode] k d = none := by
    cases k <;> cases d <;> rfl
  have hlabel (b : Bool) (q : List Bool) : labelAt [emptyNode] 0 (b :: q) = none := labelAt_cons_none (hchild 0 b)
  refine ⟨⟨Nat.one_pos, ?_, ?_, ?_, ?_⟩, rfl, fun {w v} => ?_, fun {q} hq => ?_⟩
  iterate 4 simp [hchild]
  · cases w with
    | nil => simp [labelOf]
    | cons b w => simp [hlabel]
  · cases q with
    | nil => exact .inl rfl
    | cons b q => simp [hlabel] at hq

/-- A place that begins no code and that no code begins is free. -/
theorem free (h : Represents nodes code) (hne : w ≠ []) (hw : ∀ u v, code u v → ¬ w <+: u ∧ ¬ u <+: w) :
    Free nodes w := by
  refine ⟨?_, fun q v hq hleaf => (hw q v (h.leaf.1 hleaf)).2 hq⟩
  match hl : labelAt nodes 0 w with
  | none => rfl
  | some none =>
    obtain hnil | ⟨u, v, hu, hwu⟩ := h.inner hl
    · exact absurd hnil hne
    · exact absurd hwu (hw u v hu).1
  | some (some v) => exact absurd (List.prefix_refl w) (hw w v (h.leaf.1 hl)).1

/-- Inserting a code that begins no code and that no code begins adds this one code (R163). -/
theorem insert (h : Represents nodes code) {l : Nat} (hl : l ≠ 0)
    (hw : ∀ u v, code u v → ¬ codeBits c l <+: u ∧ ¬ u <+: codeBits c l) :
    Represents (insertCode nodes 0 c l s) fun w v => code w v ∨ (w = codeBits c l ∧ v = s) := by
  obtain ⟨i, rfl⟩ := Nat.exists_eq_succ_of_ne_zero hl
  have hne : codeBits c (i + 1) ≠ [] := by rw [codeBits_succ]; simp
  have hfree := h.free hne hw
  obtain ⟨harena, hlabel⟩ := insertCode_labels (s := s) h.arena (nodeAt_nil nodes 0) (List.nil_append _).symm hfree
  refine ⟨harena, ?_, fun {w v} => ?_, fun {q} hq => ?_⟩
  · rw [hlabel, if_neg hne.symm, if_pos (List.nil_prefix)]
  · rw [hlabel, ← h.leaf]
    by_cases hwc : w = codeBits c (i + 1)
    · subst hwc
      simp [hfree.1, eq_comm]
    rw [if_neg hwc]
    by_cases hpre : w <+: codeBits c (i + 1)
    · simp [hpre, hwc, hfree.2 w v hpre]
    · simp [hpre, hwc]
  · rw [hlabel] at hq
    split at hq
    · cases hq
    · split at hq
      · rename_i hqw
        exact .inr ⟨_, s, .inr ⟨rfl, rfl⟩, hqw⟩
      · exact (h.inner hq).imp_right fun ⟨w, v, hwv, hqw⟩ => ⟨w, v, .inl hwv, hqw⟩

end Represents

end Sys2Proof.Machine

/-! SUPPORT. Both builds insert the canonical codes of the used symbols in order (41_huffman.md R162, R163;
45_jpeg_entropy.md R302), so their trees have exactly these codes. -/

namespace Sys2Proof.Machine

variable {lens : List Nat} {sym : Nat → Nat} {m l k n : Nat}

/-- The arena after the first `k` symbols of `lens`, the `j`-th of them written as `sym j`. -/
def canonicalArena (lens : List Nat) (sym : Nat → Nat) : Nat → List Node
  | 0 => [emptyNode]
  | k + 1 =>
    if lens.getD k 0 = 0 then canonicalArena lens sym k
    else insertCode (canonicalArena lens sym k) 0 (canonicalCode lens k) (lens.getD k 0) (sym k)

theorem canonicalArena_unused (h : lens.getD k 0 = 0) : canonicalArena lens sym (k + 1) = canonicalArena lens sym k :=
  if_pos h

theorem canonicalArena_used (h : lens.getD k 0 = l) (hl : l ≠ 0) : canonicalArena lens sym (k + 1) =
    insertCode (canonicalArena lens sym k) 0 (nextCode lens l k) l (sym k) := by
  subst h
  exact if_neg hl

/-- The codes of the first `k` symbols (R160). -/
def CanonicalUpTo (lens : List Nat) (sym : Nat → Nat) (k : Nat) (w : List Bool) (v : Nat) : Prop :=
  ∃ j < k, lens.getD j 0 ≠ 0 ∧ w = canonicalBits lens j ∧ v = sym j

theorem canonicalUpTo_succ {w : List Bool} {v : Nat} : CanonicalUpTo lens sym (k + 1) w v ↔
    CanonicalUpTo lens sym k w v ∨ (lens.getD k 0 ≠ 0 ∧ w = canonicalBits lens k ∧ v = sym k) :=
  Nat.exists_lt_succ_right

/-- The arena has exactly the codes inserted, since no canonical code begins another (R164). -/
theorem canonicalArena_represents (h : admitted lens m = true) (sym : Nat → Nat) (hk : k ≤ lens.length) :
    Represents (canonicalArena lens sym k) (CanonicalUpTo lens sym k) := by
  induction k with
  | zero => exact Represents.root_alone.congr fun w v => by simp [CanonicalUpTo]
  | succ k ih =>
    specialize ih (Nat.le_of_succ_le hk)
    by_cases hl : lens.getD k 0 = 0
    · rw [canonicalArena_unused hl]
      exact ih.congr fun w v => by rw [canonicalUpTo_succ, or_iff_left fun hk => hk.1 hl]
    · rw [canonicalArena_used rfl hl]
      refine (ih.insert hl ?_).congr fun w v => ?_
      · rintro - - ⟨j, hj, hlj, rfl, -⟩
        have hjk := Nat.ne_of_lt hj
        exact ⟨fun hp => hjk (canonicalBits_prefix h hk (Nat.lt_trans hj hk) hl hlj hp).symm,
          fun hp => hjk (canonicalBits_prefix h (Nat.lt_trans hj hk) hk hlj hl hp)⟩
      · rw [canonicalUpTo_succ, canonicalBits_eq, canonicalCode_eq]
        simp only [ne_eq, hl, not_false_eq_true, true_and]

/-- Once all codes are in, the code function of the tree is the canonical code (R160, R173). -/
theorem treeCode_canonicalArena (h : admitted lens m = true) (sym : Nat → Nat) (bits : List Bool) (v : Nat) :
    treeCode (canonicalArena lens sym lens.length) 0 bits = some v ↔
      ∃ j < lens.length, lens.getD j 0 ≠ 0 ∧ bits = canonicalBits lens j ∧ v = sym j :=
  (canonicalArena_represents h sym (Nat.le_refl _)).treeCode_iff

/-! The build from code lengths. -/

/-- The table `HUF.next_code` after the first `k` symbols (R162, R163). -/
def NextCodes (lens : List Nat) (m k : Nat) (next : List Nat) : Prop :=
  next.length = m + 1 ∧ ∀ l ≤ m, l ≠ 0 → next.getD l 0 = nextCode lens l k

theorem nextCodes_zero (lens : List Nat) (m : Nat) : NextCodes lens m 0 (firstCodes lens m) := by
  refine ⟨by simp [firstCodes], fun l hl _ => ?_⟩
  rw [nextCode_zero]
  simp [firstCodes, Nat.lt_succ_of_le hl]

theorem NextCodes.unused {next : List Nat} (h : NextCodes lens m k next) (hk : k < lens.length)
    (h0 : lens.getD k 0 = 0) : NextCodes lens m (k + 1) next := by
  refine ⟨h.1, fun l hl hne => ?_⟩
  rw [h.2 l hl hne, nextCode_succ hk, h0, if_neg hne.symm, Nat.add_zero]

theorem NextCodes.used {next : List Nat} (h : NextCodes lens m k next) (hk : k < lens.length) (hl : lens.getD k 0 = l) :
    NextCodes lens m (k + 1) (next.set l (next.getD l 0 + 1)) := by
  obtain ⟨hlen, hnext⟩ := h
  refine ⟨by rw [List.length_set, hlen], fun b hb hne => ?_⟩
  rw [nextCode_succ hk, hl]
  by_cases hbl : l = b
  · subst hbl
    rw [if_pos rfl, ← hnext l hb hne]
    simp [hlen, Nat.lt_succ_of_le hb]
  · rw [if_neg hbl, Nat.add_zero, ← hnext b hb hne]
    simp [hbl]

/-- Step 3 of R163 from any symbol on. -/
theorem assignCodes_eq (hm : ∀ j, lens.getD j 0 ≤ m) {rest next : List Nat} (hrest : lens.drop k = rest)
    (hnext : NextCodes lens m k next) :
    assignCodes rest k next (canonicalArena lens id k) = canonicalArena lens id (k + rest.length) := by
  induction rest generalizing k next with
  | nil => rfl
  | cons l rest ih =>
    have hk : k < lens.length := by
      rcases Nat.lt_or_ge k lens.length with hlt | hge
      · exact hlt
      · rw [List.drop_eq_nil_of_le hge] at hrest
        cases hrest
    rw [List.drop_eq_getElem_cons hk, List.cons.injEq] at hrest
    obtain ⟨hl, hrest⟩ := hrest
    replace hl : lens.getD k 0 = l := by simp [hk, hl]
    rw [assignCodes, List.length_cons, show k + (rest.length + 1) = k + 1 + rest.length by omega]
    by_cases h0 : l = 0
    · rw [if_pos h0, ← ih hrest (hnext.unused hk (hl.trans h0)), canonicalArena_unused (hl.trans h0)]
    · rw [if_neg h0, ← ih hrest (hnext.used hk hl), canonicalArena_used hl h0, hnext.2 l (hl ▸ hm k) h0]
      rfl

theorem buildNodes_eq (h : admitted lens m = true) : buildNodes lens m = canonicalArena lens id lens.length := by
  have hall := assignCodes_eq (le_of_admitted h) (k := 0) (rest := lens) rfl (nextCodes_zero lens m)
  rwa [Nat.zero_add] at hall

/-! The JPEG build. -/

/-- The code lengths of the counts for the lengths `l, l+1, ...`, in order (R302). -/
def lengthsFrom : List Nat → Nat → List Nat
  | [], _ => []
  | count :: rest, l => List.replicate count l ++ lengthsFrom rest (l + 1)

theorem lengthsFrom_eq (counts : List Nat) (l : Nat) :
    lengthsFrom counts l = (List.range counts.length).flatMap fun i => List.replicate (counts.getD i 0) (i + l) := by
  induction counts generalizing l with
  | nil => rfl
  | cons count rest ih =>
    rw [lengthsFrom, ih, List.length_cons, List.range_succ_eq_map, List.flatMap_cons, List.flatMap_map]
    simp [Nat.add_assoc, Nat.add_comm 1]

theorem jpegLengths_eq (counts : List Nat) : jpegLengths counts = lengthsFrom counts 1 := (lengthsFrom_eq counts 1).symm

theorem lengthsFrom_length (counts : List Nat) (l : Nat) : (lengthsFrom counts l).length = counts.sum := by
  induction counts generalizing l with
  | nil => rfl
  | cons count rest ih => simp [lengthsFrom, ih]

theorem jpegLengths_length (counts : List Nat) : (jpegLengths counts).length = counts.sum := by
  rw [jpegLengths_eq, lengthsFrom_length]

theorem mem_lengthsFrom {counts : List Nat} {x : Nat} (h : x ∈ lengthsFrom counts l) :
    l ≤ x ∧ x < l + counts.length := by
  induction counts generalizing l with
  | nil => cases h
  | cons count rest ih =>
    rw [lengthsFrom, List.mem_append] at h
    rcases h with h | h
    · rw [List.eq_of_mem_replicate h]
      simp
    · have := ih h
      simp only [List.length_cons]
      omega

theorem jpegLengths_getD_ne_zero {counts : List Nat} (hk : k < (jpegLengths counts).length) :
    (jpegLengths counts).getD k 0 ≠ 0 := by
  have hmem : (jpegLengths counts)[k] ∈ lengthsFrom counts 1 := jpegLengths_eq counts ▸ List.getElem_mem hk
  rw [List.getD_eq_getElem?_getD, List.getElem?_eq_getElem hk, Option.getD_some]
  exact Nat.pos_iff_ne_zero.1 (mem_lengthsFrom hmem).1

/-- The two sums of R164 and R303 are one. -/
theorem kraftSum_lengthsFrom (counts : List Nat) (hl : l ≠ 0) :
    kraftSum (lengthsFrom counts l) 16 = jkraft counts l := by
  induction counts generalizing l with
  | nil => rfl
  | cons count rest ih =>
    rw [lengthsFrom, kraftSum_append, kraftSum_replicate count hl, ih (Nat.succ_ne_zero l), jkraft]

/-- Counts that R303 admits are lengths that R164 admits. -/
theorem admitted_jpegLengths {counts : List Nat} (hlen : counts.length = 16) (h : jadmitted counts = true) :
    admitted (jpegLengths counts) 16 = true := by
  rw [jadmitted, Bool.and_eq_true, decide_eq_true_eq] at h
  rw [jpegLengths_eq, admitted_iff, kraftSum_lengthsFrom counts Nat.one_ne_zero]
  refine ⟨fun x hx => ?_, h.1⟩
  have := mem_lengthsFrom hx
  omega

/-- A run of symbols of one length (R302). -/
theorem jAssignLength_eq {syms : List Nat} (hl : l ≠ 0) (hrun : ∀ j, k ≤ j → j < k + n → lens[j]? = some l)
    (hsyms : k + n ≤ syms.length) :
    jAssignLength n l (nextCode lens l k) (syms.drop k) (canonicalArena lens (syms.getD · 0) k) =
      (canonicalArena lens (syms.getD · 0) (k + n), nextCode lens l (k + n), syms.drop (k + n)) := by
  induction n generalizing k with
  | zero => rfl
  | succ n ih =>
    have hk : k < syms.length := by omega
    obtain ⟨hlens, hkl⟩ := List.getElem?_eq_some_iff.1 (hrun k (Nat.le_refl k) (by omega))
    have hget : lens.getD k 0 = l := by simp [hlens, hkl]
    have hstep := ih (k := k + 1) (fun j h1 h2 => hrun j (by omega) (by omega)) (by omega)
    rw [nextCode_succ hlens, if_pos hget, canonicalArena_used hget hl] at hstep
    rw [List.drop_eq_getElem_cons hk, jAssignLength, show k + (n + 1) = k + 1 + n by omega, ← hstep]
    simp [hk]

/-- The lengths from the `k`-th symbol on are those of `counts`, for the lengths `l, l+1, ...`, and those before it are
shorter. -/
def LengthsFrom (lens counts : List Nat) (l k : Nat) : Prop :=
  lens.drop k = lengthsFrom counts l ∧ ∀ x ∈ lens.take k, x < l

theorem nextCode_of_lt {b : Nat} (h : ∀ x ∈ lens.take k, x < b) : nextCode lens b k = firstCode lens b := by
  rw [nextCode, List.count_eq_zero_of_not_mem fun hb => Nat.ne_of_lt (h b hb) rfl, Nat.add_zero]

/-- After the run of a length the next code is the first of the next length (R302). -/
theorem nextCode_mul_two (hl : l ≠ 0) (htake : ∀ x ∈ lens.take k, x < l + 1) (hdrop : ∀ x ∈ lens.drop k, l + 1 ≤ x) :
    nextCode lens l k * 2 = nextCode lens (l + 1) k := by
  have hcount : (lens.take k).count l = lens.count l := by
    conv => rhs; rw [← List.take_append_drop k lens, List.count_append]
    rw [List.count_eq_zero_of_not_mem fun hmem => Nat.not_succ_le_self l (hdrop l hmem), Nat.add_zero]
  rw [nextCode_of_lt htake, nextCode, hcount, firstCode, blCount_of_ne_zero hl]

/-- The loop of R302 from any length on. -/
theorem jAssign_eq {counts syms : List Nat} (hl : l ≠ 0) (hsyms : lens.length = syms.length)
    (hfrom : LengthsFrom lens counts l k) (hk : k ≤ lens.length) :
    jAssign counts l (nextCode lens l k) (syms.drop k) (canonicalArena lens (syms.getD · 0) k) =
      canonicalArena lens (syms.getD · 0) lens.length := by
  induction counts generalizing l k with
  | nil =>
    have hend : lens.length ≤ k := List.drop_eq_nil_iff.1 hfrom.1
    rw [jAssign, Nat.le_antisymm hk hend]
  | cons count rest ih =>
    obtain ⟨hdrop, htake⟩ := hfrom
    rw [lengthsFrom] at hdrop
    have hlen : lens.length - k = count + rest.sum := by
      rw [← List.length_drop, hdrop, List.length_append, List.length_replicate, lengthsFrom_length]
    have hrun (j : Nat) (h1 : k ≤ j) (h2 : j < k + count) : lens[j]? = some l := by
      rw [show j = k + (j - k) by omega, ← List.getElem?_drop, hdrop,
        List.getElem?_append_left (by rw [List.length_replicate]; omega), List.getElem?_replicate, if_pos (by omega)]
    have hdrop' : lens.drop (k + count) = lengthsFrom rest (l + 1) := by
      rw [← List.drop_drop, hdrop, List.drop_left' (List.length_replicate ..)]
    have htake' : ∀ x ∈ lens.take (k + count), x < l + 1 := by
      intro x hx
      rw [List.take_add, hdrop, List.take_left' (List.length_replicate ..), List.mem_append] at hx
      rcases hx with hx | hx
      · exact Nat.lt_succ_of_lt (htake x hx)
      · exact List.eq_of_mem_replicate hx ▸ Nat.lt_succ_self l
    rw [jAssign, jAssignLength_eq hl hrun (by omega)]
    dsimp only
    rw [nextCode_mul_two hl htake' fun x hx => (mem_lengthsFrom (hdrop' ▸ hx)).1]
    exact ih (Nat.succ_ne_zero l) ⟨hdrop', htake'⟩ (by omega)

theorem jbuildTree_nodes {counts syms : List Nat} (hsyms : syms.length = counts.sum) :
    (jbuildTree counts syms).nodes =
      canonicalArena (jpegLengths counts) (syms.getD · 0) (jpegLengths counts).length := by
  have hlen : (jpegLengths counts).length = syms.length := (jpegLengths_length counts).trans hsyms.symm
  have hall := jAssign_eq (k := 0) Nat.one_ne_zero hlen ⟨jpegLengths_eq counts, by simp⟩ (Nat.zero_le _)
  rw [nextCode_zero] at hall
  exact hall

/-- Settles O25. Both builds give the arena of the canonical codes; a JPEG table has no symbol of length 0. -/
theorem canonicalCodesDecodeToTheirSymbols : Obligations.CanonicalCodesDecodeToTheirSymbols := by
  refine ⟨fun lens m sym h hsym hl => ?_, fun lens m bits v h hcode => ?_, fun counts syms hlen hsyms h bits v => ?_⟩
  · rw [buildTree, buildNodes_eq h, treeCode_canonicalArena h]
    exact ⟨sym, hsym, hl, rfl, rfl⟩
  · rw [buildTree, buildNodes_eq h, treeCode_canonicalArena h] at hcode
    obtain ⟨j, hj, hl, hbits, rfl⟩ := hcode
    exact ⟨hj, hl, hbits⟩
  · have hlength : (jpegLengths counts).length = syms.length := (jpegLengths_length counts).trans hsyms.symm
    rw [jbuildTree_nodes hsyms, treeCode_canonicalArena (admitted_jpegLengths hlen h)]
    constructor
    · rintro ⟨k, hk, -, hbits, rfl⟩
      exact ⟨k, by simp [hlength ▸ hk], hbits⟩
    · rintro ⟨k, hk, hbits⟩
      have hlt : k < (jpegLengths counts).length := hlength ▸ (List.getElem?_eq_some_iff.1 hk).1
      exact ⟨k, hlt, jpegLengths_getD_ne_zero hlt, hbits, by simp [hk]⟩

end Sys2Proof.Machine

/-! SUPPORT. The output and the window of INF (42_inflate.md R215, R219; 20_memory.md R78): a byte emitted keeps them in
step, and a copy from the window repeats the output. -/

namespace Sys2Proof.Machine

variable {s : State}

/-- The output and the window agree, wherever the call stands (R215); the window is in canonical form. It speaks of `OUT`,
`WIN` and the counters of INF alone: a write of any other register leaves it as it is, by definition. -/
def State.InStep (s : State) : Prop :=
  Memory.wf s.win = true ∧ s.inf.produced = s.out.length ∧ s.inf.wpos = s.inf.produced % 32768 ∧
    ∀ d, 1 ≤ d → d ≤ 32768 → d ≤ s.inf.produced → windowByte s d = s.out.getD (s.inf.produced - d) 0#8

theorem State.WindowOk.inStep (h : s.WindowOk) (hc : s.Canonical) (hp : s.point.inflating = true) : s.InStep :=
  ⟨hc.2.1, h hp⟩

theorem State.InStep.windowOk (h : s.InStep) : s.WindowOk := fun _ => h.2

theorem State.InStep.wpos_lt (h : s.InStep) : s.inf.wpos < 32768 := by
  obtain ⟨-, -, hwpos, -⟩ := h
  omega

/-- The window index without negative numbers (R78). -/
theorem windowIndex_eq {d : Nat} (hd : d ≤ 32768) (wpos : Nat) : windowIndex wpos d = (wpos + 32768 - d) % 32768 := by
  show (((wpos : Int) - d) % 32768).toNat = _
  omega

/-- One byte back is the byte just emitted. -/
theorem windowByte_emit_one (hw : Memory.wf s.win = true) (hp : s.inf.wpos < 32768) (v : Byte) :
    windowByte (emit v s) 1 = v := by
  have hindex : windowIndex ((s.inf.wpos + 1) % 32768) 1 = s.inf.wpos := by
    rw [windowIndex_eq (by omega)]
    omega
  simp only [windowByte, emit_win, emit_inf, hindex]
  exact Memory.read_write_same hw _ _

/-- Further back the window is as it was, each byte one place further away. -/
theorem windowByte_emit_succ (hp : s.inf.wpos < 32768) (v : Byte) {d : Nat} (h1 : 1 ≤ d) (h2 : d + 1 ≤ 32768) :
    windowByte (emit v s) (d + 1) = windowByte s d := by
  have hindex : windowIndex ((s.inf.wpos + 1) % 32768) (d + 1) = windowIndex s.inf.wpos d := by
    rw [windowIndex_eq h2, windowIndex_eq (by omega)]
    omega
  have hne : windowIndex s.inf.wpos d ≠ s.inf.wpos := by
    rw [windowIndex_eq (by omega)]
    omega
  simp only [windowByte, emit_win, emit_inf, hindex]
  exact Memory.read_write_other hne _ _

theorem State.InStep.emit (h : s.InStep) (v : Byte) : (emit v s).InStep := by
  have hlt := h.wpos_lt
  obtain ⟨hw, hproduced, hwpos, hwindow⟩ := h
  refine ⟨Memory.wf_write hw _ _, ?_, ?_, fun d h1 h2 hd => ?_⟩
  · rw [emit_out, List.length_append, ← hproduced]
    rfl
  · show (s.inf.wpos + 1) % 32768 = (s.inf.produced + 1) % 32768
    omega
  · replace hd : d ≤ s.inf.produced + 1 := hd
    show windowByte (Machine.emit v s) d = (s.out ++ [v]).getD (s.inf.produced + 1 - d) 0#8
    obtain ⟨e, rfl⟩ : ∃ e, d = e + 1 := ⟨d - 1, by omega⟩
    rw [Nat.add_sub_add_right, List.getD_eq_getElem?_getD]
    rcases Nat.eq_zero_or_pos e with rfl | he
    · rw [windowByte_emit_one hw hlt, Nat.sub_zero, hproduced, List.getElem?_concat_length, Option.getD_some]
    · rw [windowByte_emit_succ hlt v he h2, hwindow e he (by omega) (by omega),
        List.getElem?_append_left (by omega), ← List.getD_eq_getElem?_getD]

theorem State.InStep.emitAll (h : s.InStep) (bytes : List Byte) : (emitAll bytes s).InStep := by
  induction bytes generalizing s with
  | nil => exact h
  | cons v rest ih => exact ih (h.emit v)

theorem State.InStep.copyBack (h : s.InStep) (d n : Nat) : (copyBack d n s).InStep := by
  induction n generalizing s with
  | zero => exact h
  | succ n ih => exact ih (h.emit _)

/-- A copy appends its bytes one by one, each the byte `d` places back in the output so far, its own bytes among them
(R219). -/
theorem copyBack_appends {d : Nat} (n : Nat) (h : s.InStep) (h1 : 1 ≤ d) (h2 : d ≤ 32768) (hd : d ≤ s.out.length) :
    ∃ bytes : List Byte, bytes.length = n ∧
      (∀ k, k < n → bytes.getD k 0#8 = (s.out ++ bytes).getD (s.out.length - d + k) 0#8) ∧
      s.Appended bytes (copyBack d n s) := by
  induction n generalizing s with
  | zero => exact ⟨[], rfl, fun k hk => absurd hk (Nat.not_lt_zero k), appended_nil s h.wpos_lt⟩
  | succ n ih =>
    obtain ⟨hw, hproduced, -, hwindow⟩ := id h
    have hfirst : windowByte s d = s.out.getD (s.out.length - d) 0#8 := by
      rw [hwindow d h1 h2 (by omega), hproduced]
    have hout : (emit (windowByte s d) s).out = s.out ++ [windowByte s d] := rfl
    have hlength : (emit (windowByte s d) s).out.length = s.out.length + 1 := by rw [hout, List.length_append]; rfl
    obtain ⟨bytes, hbytes, hcopy, happended⟩ := ih (h.emit (windowByte s d)) (by omega)
    refine ⟨windowByte s d :: bytes, congrArg (· + 1) hbytes, fun k hk => ?_,
      appended_trans (appended_emit _ s hw h.wpos_lt) happended⟩
    cases k with
    | zero =>
      rw [List.getD_cons_zero, Nat.add_zero, hfirst]
      simp only [List.getD_eq_getElem?_getD]
      rw [List.getElem?_append_left (by omega)]
    | succ k =>
      rw [List.getD_cons_succ, hcopy k (by omega), hlength, hout, List.append_assoc, List.singleton_append,
        show s.out.length + 1 - d + k = s.out.length - d + (k + 1) by omega]

end Sys2Proof.Machine

/-! SUPPORT. How INF goes on (42_inflate.md R223; 40_bitreader.md R149): an element after which INF still decodes leaves
BR on the same buffer, its position not moved back, and the output and the window in step. -/

namespace Sys2Proof.Machine

variable {s u v : State}

/-- The formats of the elements of INF (30_encoding.md R104 to R110). -/
def inflateFormat : Format → Bool
  | .blockHdr => true
  | .stored => true
  | .dynHdr => true
  | .clen => true
  | .litlen => true
  | .dist => true
  | .fixedLL => true
  | .fixedD => true
  | _ => false

/-- BR reads the same buffer in both states, and its position is not further back in `v`. -/
def State.Ahead (u v : State) : Prop :=
  v.br.space = u.br.space ∧ v.br.base = u.br.base ∧ v.br.len = u.br.len ∧ brPos u ≤ brPos v

/-- INF may come from `u` to `v`. It speaks of BR and of what `State.InStep` speaks of: a write of any other register leaves
it as it is, by definition. -/
def State.Inflates (u v : State) : Prop := u.Ahead v ∧ (u.InStep → v.InStep)

/-- A step from `s` that leaves INF decoding may leave `t`. -/
def State.InflatesOn (s t : State) : Prop := t.point.inflating = true → s.Inflates t

theorem State.Inflates.refl (s : State) : s.Inflates s := ⟨⟨rfl, rfl, rfl, Nat.le_refl _⟩, id⟩

theorem State.Inflates.trans (h : s.Inflates u) (h' : u.Inflates v) : s.Inflates v := by
  obtain ⟨⟨hspace, hbase, hlen, hpos⟩, hstep⟩ := h
  obtain ⟨⟨hspace', hbase', hlen', hpos'⟩, hstep'⟩ := h'
  exact ⟨⟨hspace'.trans hspace, hbase'.trans hbase, hlen'.trans hlen, Nat.le_trans hpos hpos'⟩, hstep' ∘ hstep⟩

/-- Where the call ends or another unit goes on, nothing is owed. -/
theorem inflatesOn_of_point {t : State} (ht : t.point.inflating = false) : s.InflatesOn t := fun h => by
  cases ht.symm.trans h

theorem inflatesOn_failCall (s : State) (k : FailKind) (u : State) : s.InflatesOn (failCall k u) := inflatesOn_of_point rfl

/-- A read inside INF, and what follows it. -/
theorem inflates_run {α : Type} {x : Res α} {f : α → State → Out} (h : s.Inflates u)
    (hx : ∀ a v, x = .ok a v → u.Inflates v) (hf : ∀ a v, s.Inflates v → Answers s.InflatesOn (f a v)) :
    Answers s.InflatesOn (x.run f) := by
  cases x with
  | ok a v => exact hf a v (h.trans (hx a v rfl))
  | fail k v => exact inflatesOn_failCall s k v

/-! The reads move the cursor forward. -/

theorem inflates_brSeek {p : Nat} (h : brPos u ≤ p) : u.Inflates (brSeek p u) :=
  ⟨⟨rfl, rfl, rfl, by rwa [brPos_brSeek]⟩, id⟩

theorem readBits_inflates {n a : Nat} (h : readBits n u = .ok a v) : u.Inflates v := by
  obtain ⟨-, -, rfl⟩ := readBits_ok h
  exact inflates_brSeek (Nat.le_add_right _ _)

theorem extraBits_inflates {n a : Nat} (h : extraBits n u = .ok a v) : u.Inflates v := by
  rcases extraBits_ok h with ⟨-, -, rfl⟩ | ⟨-, h⟩
  · exact State.Inflates.refl _
  · exact readBits_inflates h

theorem readClenFields_inflates {n : Nat} {a : List Nat} (h : readClenFields n u = .ok a v) : u.Inflates v := by
  induction n generalizing u a with
  | zero =>
    cases h
    exact State.Inflates.refl _
  | succ n ih =>
    rw [readClenFields] at h
    obtain ⟨b, w, hfirst, h⟩ := Res.bind_ok h
    obtain ⟨bs, x, hrest, h⟩ := Res.bind_ok h
    cases h
    exact (readBits_inflates hfirst).trans (ih hrest)

/-- The next byte boundary, and any number of bytes after it, is not behind the cursor (R145, R146). -/
theorem inflates_bytes (n : Nat) (u : State) :
    u.Inflates { u with br := { u.br with bytePos := (brPos u + 7) / 8 + n, bitPos := 0#3 } } := by
  refine ⟨⟨rfl, rfl, rfl, ?_⟩, id⟩
  show brPos u ≤ 8 * ((brPos u + 7) / 8 + n) + 0
  omega

theorem readBytes_inflates {n : Nat} {a : List Byte} (h : readBytes n u = .ok a v) : u.Inflates v := by
  rcases Nat.lt_or_ge (u.br.len - (brPos u + 7) / 8) n with hshort | henough
  · rw [readBytes_short hshort] at h
    cases h
  · rw [readBytes_of_le henough] at h
    cases h
    exact inflates_bytes n u

/-! The elements of INF. -/

theorem inflates_alignToByte (u : State) : u.Inflates (alignToByte u) := by
  rw [alignToByte_eq]
  exact inflates_bytes 0 u

theorem State.Inflates.emitAll (h : s.Inflates u) (bytes : List Byte) : s.Inflates (emitAll bytes u) := by
  obtain ⟨o, w, i, e, -⟩ := emitAll_frame bytes u
  have hstep := State.InStep.emitAll (s := u) (bytes := bytes)
  rw [e] at hstep ⊢
  exact ⟨h.1, hstep ∘ h.2⟩

theorem State.Inflates.copyBack (h : s.Inflates u) (d n : Nat) : s.Inflates (copyBack d n u) := by
  obtain ⟨o, w, i, e, -⟩ := copyBack_frame d n u
  have hstep := State.InStep.copyBack (s := u) (d := d) (n := n)
  rw [e] at hstep ⊢
  exact ⟨h.1, hstep ∘ h.2⟩

/-- Of the ends of a block only the next header leaves INF decoding (R190, R192). -/
theorem inflates_finishBlock (h : s.Inflates u) : Answers s.InflatesOn (finishBlock u) := by
  refine answers_of_next fun t ho => ?_
  obtain ⟨-, rfl⟩ | ⟨-, ⟨-, rfl⟩ | ⟨-, rfl | rfl⟩ | ⟨-, rfl | rfl | rfl⟩⟩ := finishBlock_next ho
  · exact fun _ => h
  all_goals exact inflatesOn_of_point rfl

theorem inflates_execStoredLenNlen (len nlen : Half) (h : s.Inflates u) :
    Answers s.InflatesOn (execStoredLenNlen len nlen u) :=
  answers_ite
    (inflates_run h (fun _ _ => readBytes_inflates) fun bytes _ hv => inflates_finishBlock (hv.emitAll bytes))
    (inflatesOn_failCall s _ _)

theorem inflates_execDynCounts (hlit hdist : BitVec 5) (hclen : BitVec 4) (h : s.Inflates u) :
    Answers s.InflatesOn (execDynCounts hlit hdist hclen u) :=
  inflates_run h (fun _ _ => readClenFields_inflates) fun _ _ hv => answers_ite (fun _ => hv) trivial

theorem inflates_lengthsDone (h : s.Inflates u) : Answers s.InflatesOn (lengthsDone u) :=
  answers_ite (fun _ => h) (answers_ite (fun _ => h) trivial)

/-- A run of code lengths, its number of repeats read first (R205). -/
theorem inflates_lengthRun (n a m : Nat) (h : s.Inflates u) :
    Answers s.InflatesOn ((readBits n u).run fun e t => appendLengths a (m + e) t) :=
  inflates_run h (fun _ _ => readBits_inflates) fun _ _ hv =>
    answers_ite (inflatesOn_failCall s _ _) (inflates_lengthsDone hv)

theorem inflates_execClRep (h : s.Inflates u) : Answers s.InflatesOn (execClRep u) := by
  unfold execClRep
  split
  · exact inflatesOn_failCall s _ _
  · exact inflates_lengthRun 2 _ 3 h

theorem inflates_lengthCode {i : Instr} (hi : i ∈ lengthInstrs) (h : s.Inflates u) :
    Answers s.InflatesOn (exec i u) := by
  obtain ⟨k, hk⟩ := List.getElem?_of_mem hi
  rw [exec_lengthInstrs hk]
  exact inflates_run h (fun _ _ => extraBits_inflates) fun _ _ hv _ => hv

theorem inflates_distanceCode {i : Instr} (hi : i ∈ distInstrs) (h : s.Inflates u) :
    Answers s.InflatesOn (exec i u) := by
  obtain ⟨k, hk⟩ := List.getElem?_of_mem hi
  rw [exec_distInstrs hk]
  exact inflates_run h (fun _ _ => extraBits_inflates) fun _ _ hv =>
    answers_ite (inflatesOn_failCall s _ _) fun _ => hv.copyBack _ _

/-- Each element of INF, in any state. -/
theorem inflates_exec {i : Instr} (hi : inflateFormat (formatOf i) = true) (s : State) :
    Answers s.InflatesOn (exec i s) := by
  have h := State.Inflates.refl s
  cases i with
  | blockStored b => exact fun _ => State.Inflates.trans (u := latchHeader b 0#2 s) h (inflates_alignToByte _)
  | blockFixed | blockDynamic | fixll0to143 | fixll144to255 | fixll256to279 | fixll280to287 | fixd0to31 =>
    exact fun _ => h
  | blockReserved | lenInvalid | distInvalid => exact inflatesOn_failCall s _ _
  | storedLenNlen len nlen => exact inflates_execStoredLenNlen len nlen h
  | dynCounts hlit hdist hclen => exact inflates_execDynCounts hlit hdist hclen h
  | clLen => exact inflates_lengthsDone h
  | clRep => exact inflates_execClRep h
  | clZero3 => exact inflates_lengthRun 3 0 3 h
  | clZero11 => exact inflates_lengthRun 7 0 11 h
  | lit b => exact fun _ => h.emitAll [b]
  | eob => exact inflates_finishBlock h
  | len257 | len258 | len259 | len260 | len261 | len262 | len263 | len264 | len265 | len266 | len267 | len268 |
    len269 | len270 | len271 | len272 | len273 | len274 | len275 | len276 | len277 | len278 | len279 | len280 |
    len281 | len282 | len283 | len284 | len285 => exact inflates_lengthCode (by decide) h
  | dist0 | dist1 | dist2 | dist3 | dist4 | dist5 | dist6 | dist7 | dist8 | dist9 | dist10 | dist11 | dist12 |
    dist13 | dist14 | dist15 | dist16 | dist17 | dist18 | dist19 | dist20 | dist21 | dist22 | dist23 | dist24 |
    dist25 | dist26 | dist27 | dist28 | dist29 => exact inflates_distanceCode (by decide) h
  | _ => cases hi -- an element of another unit, or a command

/-! The fetch. -/

theorem ofRes_eq_element {f g : Format} {x : Res Nat} {w : Nat} (h : Fetched.ofRes f x = .element g w u) :
    f = g ∧ x = .ok w u := by
  cases x with
  | ok a v =>
    cases h
    exact ⟨rfl, rfl⟩
  | fail k v => cases h

theorem fetchSymbol_eq_element {f g : Format} {t : Tree} {w : Nat} (h : fetchSymbol f t s = .element g w u) :
    f = g ∧ decodeSymbol t s = .ok w u := by
  unfold fetchSymbol at h
  split at h
  · exact ofRes_eq_element h
  · cases h

/-- A read of at least one bit. -/
theorem inflates_brSeek_of_lt {p : Nat} (h : brPos s < p) : s.Inflates (brSeek p s) ∧ brPos s < brPos (brSeek p s) :=
  ⟨inflates_brSeek (Nat.le_of_lt h), by rwa [brPos_brSeek]⟩

theorem fixedCodeWidth_pos (s : State) : 0 < fixedCodeWidth s := by
  unfold fixedCodeWidth
  split
  · decide
  · split <;> decide

theorem readBits_strict {n a : Nat} (hn : 0 < n) (h : readBits n s = .ok a u) : s.Inflates u ∧ brPos s < brPos u := by
  obtain ⟨-, -, rfl⟩ := readBits_ok h
  exact inflates_brSeek_of_lt (by omega)

theorem readBitsReversed_strict {n a : Nat} (hn : 0 < n) (h : readBitsReversed n s = .ok a u) :
    s.Inflates u ∧ brPos s < brPos u := by
  obtain ⟨-, -, rfl⟩ := readBitsReversed_ok h
  exact inflates_brSeek_of_lt (by omega)

theorem decodeSymbol_strict {t : Tree} {a : Nat} (h : decodeSymbol t s = .ok a u) :
    s.Inflates u ∧ brPos s < brPos u := by
  obtain ⟨p, -, rfl, hp, -⟩ := decodeSymbol_ok h
  exact inflates_brSeek_of_lt hp

/-- At the control points of INF the fetch gives an element of INF, and reads at least one bit of it unless the element
is the latched symbol of a fixed code (log 14). -/
theorem fetch_inflates {f : Format} {w : Nat} (hp : s.point.inflating = true) (h : fetch s = .element f w u) :
    inflateFormat f = true ∧ s.Inflates u ∧ (s.point ≠ .litlenSym → s.point ≠ .distSym → brPos s < brPos u) := by
  cases hpoint : s.point with
  | blockHdr | stored | dynHdr =>
    simp only [fetch, hpoint] at h
    obtain ⟨rfl, hread⟩ := ofRes_eq_element h
    obtain ⟨hinflates, hlt⟩ := readBits_strict (by decide) hread
    exact ⟨rfl, hinflates, fun _ _ => hlt⟩
  | clen =>
    simp only [fetch, hpoint] at h
    obtain ⟨rfl, hread⟩ := fetchSymbol_eq_element h
    obtain ⟨hinflates, hlt⟩ := decodeSymbol_strict hread
    exact ⟨rfl, hinflates, fun _ _ => hlt⟩
  | litlenCode =>
    by_cases hb : s.inf.btype = 1#2
    · rw [fetch_fixedLitlen hpoint hb] at h
      obtain ⟨rfl, hread⟩ := ofRes_eq_element h
      obtain ⟨hinflates, hlt⟩ := readBitsReversed_strict (fixedCodeWidth_pos s) hread
      exact ⟨rfl, hinflates, fun _ _ => hlt⟩
    · simp only [fetch, hpoint, hb, if_false] at h
      obtain ⟨rfl, hread⟩ := fetchSymbol_eq_element h
      obtain ⟨hinflates, hlt⟩ := decodeSymbol_strict hread
      exact ⟨rfl, hinflates, fun _ _ => hlt⟩
  | distCode =>
    by_cases hb : s.inf.btype = 1#2
    · rw [fetch_fixedDist hpoint hb] at h
      obtain ⟨rfl, hread⟩ := ofRes_eq_element h
      obtain ⟨hinflates, hlt⟩ := readBitsReversed_strict (by decide) hread
      exact ⟨rfl, hinflates, fun _ _ => hlt⟩
    · simp only [fetch, hpoint, hb, if_false] at h
      obtain ⟨rfl, hread⟩ := fetchSymbol_eq_element h
      obtain ⟨hinflates, hlt⟩ := decodeSymbol_strict hread
      exact ⟨rfl, hinflates, fun _ _ => hlt⟩
  | litlenSym =>
    simp only [fetch, hpoint] at h
    cases h
    exact ⟨rfl, State.Inflates.refl s, fun hne => absurd rfl hne⟩
  | distSym =>
    simp only [fetch, hpoint] at h
    cases h
    exact ⟨rfl, State.Inflates.refl s, fun _ hne => absurd rfl hne⟩
  | _ => simp only [hpoint, Point.inflating, Bool.false_eq_true] at hp

/-- What was fetched is run as an instruction of its format. -/
theorem runElement_next {f : Format} {w : Nat} {t : State} (h : runElement f w s = .next t) :
    ∃ i, formatOf i = f ∧ exec i s = .next t := by
  unfold runElement at h
  split at h
  · rename_i i hi
    obtain ⟨-, hformat, -⟩ := decodedInstructionsAreWellFormed f w i hi
    exact ⟨i, hformat, h⟩
  · cases h

/-- A step within INF. -/
theorem step_inflates {t : State} (hp : s.point.inflating = true) (h : step s = .next t) (ht : t.point.inflating = true) :
    s.Inflates t ∧ (s.point ≠ .litlenSym → s.point ≠ .distSym → brPos s < brPos t) := by
  have hcall : s.point ≠ .idle := fun hidle => by cases hidle ▸ hp
  rw [step_in_call hcall] at h
  cases hfetch : fetch s with
  | element f w u =>
    rw [hfetch] at h
    obtain ⟨i, rfl, hexec⟩ := runElement_next h
    obtain ⟨hformat, hread, hlt⟩ := fetch_inflates hp hfetch
    have hrun : u.Inflates t := (inflates_exec hformat u).of_next hexec ht
    obtain ⟨-, -, -, hpos⟩ := hrun.1
    exact ⟨hread.trans hrun, fun hlit hdist => Nat.lt_of_lt_of_le (hlt hlit hdist) hpos⟩
  | fail k u =>
    rw [hfetch] at h
    cases h
    cases ht
  | refuse r =>
    rw [hfetch] at h
    cases h

/-- Settles O14. The fetch reads at least one bit of the element, and no element moves the cursor back. -/
theorem inflateAlwaysAdvances : Obligations.InflateAlwaysAdvances := by
  intro s t hp hstep ht
  obtain ⟨⟨⟨hspace, hbase, hlen, hpos⟩, -⟩, hlt⟩ := step_inflates hp hstep ht
  exact ⟨hspace, hbase, hlen, hpos, hlt⟩

end Sys2Proof.Machine

/-! SUPPORT. Every step keeps the output and the window in step (42_inflate.md R215). A step within INF is
`step_inflates`; any other step ends at a control point of another unit, or at a block header with nothing produced yet. -/

namespace Sys2Proof.Machine

variable {s u t : State}

/-- Away from INF nothing is owed. -/
theorem windowOk_of_point (h : t.point.inflating = false) : t.WindowOk := fun hp => by cases h.symm.trans hp

/-- INF starts with nothing produced (R57, R190, R244). -/
theorem windowOk_of_init (hi : t.inf = .init) (ho : t.out = []) : t.WindowOk := fun _ => by
  rw [hi, ho]
  exact ⟨rfl, rfl, fun d h1 _ h0 => absurd (Nat.le_trans h1 h0) (by decide)⟩

theorem windowOk_failCall (k : FailKind) (u : State) : (failCall k u).WindowOk := windowOk_of_point rfl

/-- Whatever fails leaves INF: only what goes on owes anything. -/
theorem windowOk_run {α : Type} {x : Res α} {f : α → State → Out} (hf : ∀ a v, Answers State.WindowOk (f a v)) :
    Answers State.WindowOk (x.run f) := by
  cases x with
  | ok a v => exact hf a v
  | fail k v => exact windowOk_failCall k v

theorem windowOk_unlessFail {checks : List (Bool × FailKind)} {k : Out} (h : Answers State.WindowOk k) :
    Answers State.WindowOk (unlessFail checks u k) := by
  refine answers_of_next fun t ho => ?_
  obtain ⟨-, ht⟩ | ⟨kind, -, rfl⟩ := unlessFail_next ho
  · exact h.of_next ht
  · exact windowOk_failCall kind u

/-! The elements of the other units. -/

theorem windowOk_beginZlib (u : State) : Answers State.WindowOk (beginZlib u) :=
  answers_ite (windowOk_failCall _ _) (windowOk_of_point rfl)

/-- INF starts anew on the body of ZLB (R244). -/
theorem windowOk_execZlibHdr (cmf flg : Byte) (u : State) : Answers State.WindowOk (execZlibHdr cmf flg u) := by
  unfold execZlibHdr
  dsimp only
  split
  · exact windowOk_failCall _ _
  · exact windowOk_of_init rfl rfl

theorem windowOk_checkHeader (legal : List Nat) (u : State) : Answers State.WindowOk (checkHeader legal u) :=
  answers_ite (windowOk_failCall _ _) <| answers_ite (windowOk_failCall _ _) <| answers_ite (windowOk_failCall _ _) <|
    answers_ite (windowOk_failCall _ _) (windowOk_of_point rfl)

theorem windowOk_convertRows (ch : Nat) (f : List Byte → Option (List Byte)) (u : State) :
    Answers State.WindowOk (convertRows ch f u) := by
  unfold convertRows
  split
  · exact windowOk_of_point rfl
  · exact windowOk_failCall _ _

theorem windowOk_reconstructRow (pred : Byte → Byte → Byte → Byte) (u : State) :
    Answers State.WindowOk (reconstructRow pred u) := by
  refine windowOk_of_point ?_
  show (if _ then Point.pngRow else .pngConvert).inflating = false
  split <;> rfl

theorem windowOk_nextBlock (u : State) : (nextBlock u).WindowOk := by
  obtain ⟨jd, jc, co, j, p, e, hp, -⟩ := nextBlock_frame u
  rw [e]
  refine windowOk_of_point ?_
  rcases hp with rfl | rfl | rfl <;> rfl

theorem windowOk_blockDone (u : State) : Answers State.WindowOk (blockDone u) := by
  unfold blockDone
  split
  · exact windowOk_of_point rfl
  · exact windowOk_run fun _ _ => windowOk_nextBlock _
  · trivial

theorem windowOk_acLoop (u : State) : Answers State.WindowOk (acLoop u) :=
  answers_ite (windowOk_of_point rfl) (windowOk_blockDone u)

theorem windowOk_beginScan (u : State) : (beginScan u).WindowOk := by
  rw [beginScan_eq]
  exact windowOk_of_point rfl

theorem windowOk_loadHuffTables (fuel : Nat) (payload : List Byte) (u : State) :
    Answers State.WindowOk (loadHuffTables fuel payload u) := by
  refine answers_of_next fun t ho => ?_
  obtain ⟨jdc, jac, jhuf, draws, rfl | ⟨k, rfl⟩⟩ := loadHuffTables_next ho
  · exact windowOk_of_point rfl
  · exact windowOk_failCall k _

/-! The commands, and the dispatch. -/

theorem windowOk_execHufDecode (u : State) : Answers State.WindowOk (execHufDecode u) := by
  refine answers_whenIdle <| answers_whenBrLive ?_
  split
  · trivial
  · exact answers_ite (windowOk_run fun _ _ => windowOk_of_point rfl) trivial

theorem windowOk_execJhufBuild (u : State) : Answers State.WindowOk (execJhufBuild u) := by
  unfold execJhufBuild
  generalize inputCounts u = counts
  generalize inputSymbols u = syms
  exact answers_whenIdle <| answers_ite trivial <| answers_ite (windowOk_of_point rfl) trivial

/-- Each command and each element of another unit than INF, in any state. -/
theorem windowOk_exec {i : Instr} (hi : inflateFormat (formatOf i) = false) (u : State) :
    Answers State.WindowOk (exec i u) := by
  cases i with
  | brReset | hufBuildFixed | pngDecode | jidctBlock | jccPixel | jccGray | jpegDecode =>
    exact answers_whenIdle (windowOk_of_point rfl)
  | brAlign => exact answers_whenIdle <| answers_whenBrLive (windowOk_of_point rfl)
  | brReadbits | brReadbitsRev =>
    exact answers_whenIdle <| answers_whenBrLive <| answers_whenBitCount <| windowOk_run fun _ _ => windowOk_of_point rfl
  | brReadbit | brReadbytes =>
    exact answers_whenIdle <| answers_whenBrLive <| windowOk_run fun _ _ => windowOk_of_point rfl
  | hufBuild => exact answers_whenIdle <| answers_ite trivial <| answers_ite (windowOk_of_point rfl) trivial
  | hufDecode => exact windowOk_execHufDecode u
  | infDecompress => exact answers_whenIdle (windowOk_of_init rfl rfl)
  | zlbDecompress => exact answers_whenIdle (windowOk_beginZlib _)
  | jhufBuild => exact windowOk_execJhufBuild u
  | jcReset => exact answers_whenIdle <| answers_ite trivial (windowOk_of_point rfl)
  | jcBlock =>
    exact answers_whenIdle <| answers_ite trivial <| answers_ite trivial <| answers_ite trivial (windowOk_of_point rfl)
  | jdqLoad | jdqBlock => exact answers_whenIdle <| answers_ite trivial <| windowOk_run fun _ _ => windowOk_of_point rfl
  | zlibHdr cmf flg => exact windowOk_execZlibHdr cmf flg u
  | pngSignature | chunkOther => exact windowOk_of_point rfl
  | chunkIhdr | chunkPlte =>
    exact answers_ite (windowOk_failCall _ _) (answers_ite (windowOk_failCall _ _) (windowOk_of_point rfl))
  | chunkIdat | ihdrPayload | mSoi | mEoi => exact answers_ite (windowOk_failCall _ _) (windowOk_of_point rfl)
  | chunkIend => exact answers_ite (windowOk_failCall _ _) (windowOk_beginZlib _)
  | ctGray | ctTruecolor | ctIndexed | ctGrayAlpha | ctTruecolorAlpha =>
    exact answers_ite (windowOk_convertRows _ _ u) (windowOk_checkHeader _ u)
  | filterNone | filterSub | filterUp | filterAverage | filterPaeth => exact windowOk_reconstructRow _ u
  | ctInvalid | filterInvalid | mSof1 | mSof2 | mSof3 | mSof5 | mSof6 | mSof7 | mSof9 | mSof10 | mSof11 | mSof13 |
    mSof14 | mSof15 | dcInvalid => exact windowOk_failCall _ u
  | mSof0 =>
    exact windowOk_run fun _ _ => windowOk_unlessFail <| windowOk_unlessFail <| windowOk_unlessFail <|
      windowOk_of_point rfl
  | mDht => exact windowOk_run fun _ _ => windowOk_loadHuffTables _ _ _
  | mDqt => exact windowOk_run fun _ _ => windowOk_run fun _ _ => windowOk_of_point rfl
  | mDri => exact windowOk_run fun _ _ => windowOk_unlessFail <| windowOk_of_point rfl
  | mSos => exact windowOk_run fun _ _ => windowOk_unlessFail <| windowOk_unlessFail <| windowOk_beginScan _
  | mRst => exact answers_ite (windowOk_of_point rfl) (windowOk_failCall _ u)
  | mOther => exact windowOk_run fun _ _ => windowOk_of_point rfl
  | dcCat => exact windowOk_run fun _ _ => windowOk_acLoop _
  | acEob => exact windowOk_blockDone u
  | acZrl => exact windowOk_acLoop _
  | acRunsize => exact answers_ite (windowOk_failCall _ _) (windowOk_run fun _ _ => windowOk_acLoop _)
  | _ => cases hi -- an element of INF

/-! The fetch and the host. -/

theorem fetchJpegSymbol_eq_element {f g : Format} {tree : Tree} {w : Nat}
    (h : fetchJpegSymbol f tree s = .element g w u) : f = g := by
  unfold fetchJpegSymbol at h
  split at h
  · exact (ofRes_eq_element h).1
  · cases h

/-- The elements that another unit than INF fetches are not of INF. -/
theorem fetch_format_of_not_inflating {f : Format} {w : Nat} (hp : s.point.inflating = false)
    (h : fetch s = .element f w u) : inflateFormat f = false := by
  unfold fetch at h
  cases hpoint : s.point with
  | idle | zlibHdr | pngIhdr | pngCheck | pngRow | pngConvert =>
    rw [hpoint] at h
    cases h
    rfl
  | pngSignature | pngChunk | jpegSoi | jpegMarker | jpegRestart =>
    rw [hpoint] at h
    dsimp only [fetchSignature, fetchChunk, fetchSoi, fetchMarker, fetchRestart] at h
    repeat' split at h
    all_goals cases h
    rfl
  | jpegDc | jpegAc =>
    rw [hpoint] at h
    obtain rfl := fetchJpegSymbol_eq_element h
    rfl
  | _ => simp only [hpoint, Point.inflating, Bool.true_eq_false] at hp

/-- Inside a call of another unit. -/
theorem windowOk_runFetched (hp : s.point.inflating = false) : Answers State.WindowOk (runFetched (fetch s)) := by
  cases hfetch : fetch s with
  | element f w u =>
    refine answers_of_next fun t ho => ?_
    obtain ⟨i, rfl, hexec⟩ := runElement_next ho
    exact (windowOk_exec (fetch_format_of_not_inflating hp hfetch) u).of_next hexec
  | fail k u => exact windowOk_failCall k u
  | refuse r => trivial

theorem windowOk_writeRegister {no : Nat} {w : Word} (h : u.WindowOk) :
    Answers State.WindowOk (writeRegister no w u) := by
  refine answers_ite ?_ <| answers_ite h <| answers_ite h <| answers_ite h <| answers_ite h <| answers_ite trivial trivial
  unfold writeCommand
  split
  · rename_i i hi
    exact windowOk_exec (by rw [formatOf_of_decode_cmd hi]; rfl) _
  · trivial

/-- What the host does writes nothing of INF, unless it starts a call or resets the core. -/
theorem windowOk_runHostOp {op : HostOp} (h : u.WindowOk) : Answers State.WindowOk (runHostOp op u) := by
  cases op with
  | writeReg no w => exact windowOk_writeRegister h
  | readReg no =>
    show Answers State.WindowOk (readRegister no u)
    unfold readRegister
    split
    · exact h
    · trivial
  | writeInput i b => exact h
  | readBuf buf i =>
    show Answers State.WindowOk (readBuffer buf i u)
    unfold readBuffer
    split
    · exact h
    · trivial
  | writeBuf buf i e => exact answers_ite (by cases buf <;> exact h) trivial
  | readOut i =>
    show Answers State.WindowOk (readOutput i u)
    unfold readOutput
    split
    · exact h
    · trivial
  | reset => exact windowOk_of_point rfl

/-- Settles O7. Within INF an element emits bytes, each to the output and to the window, or leaves both; from outside INF
a step that leads into it starts it anew. -/
theorem stepKeepsWindowInStep : Obligations.StepKeepsWindowInStep := by
  intro s t hc hw hstep
  cases hin : s.point.inflating with
  | true =>
    intro ht
    obtain ⟨⟨-, hkeeps⟩, -⟩ := step_inflates hin hstep ht
    exact (hkeeps (hw.inStep hc hin)).windowOk ht
  | false =>
    by_cases hp : s.point = .idle
    · cases hh : s.host with
      | nil =>
        rw [step_of_no_host hp hh] at hstep
        cases hstep
        exact hw
      | cons op rest =>
        rw [step_of_host hp hh] at hstep
        exact (windowOk_runHostOp (u := { s with host := rest }) hw).of_next hstep
    · rw [step_in_call hp] at hstep
      exact (windowOk_runFetched hin).of_next hstep

end Sys2Proof.Machine

/-! SUPPORT. The elements of INF, each with its exact outcome (42_inflate.md R190 to R221), and the elements of any unit that
have no meaning (60_exceptions.md R403). -/

namespace Sys2Proof.Machine

variable {s : State}

/-! Failures. -/

/-- A failure raised where only registers of INF, ZLB and PNG differ from those of the call's state (R403, R405). -/
theorem fails_raise (k : FailKind) (s : State) (b : Br) (i : Inf) (z : Zlb) (o r : List Byte) :
    Fails (raise k { s with br := b, inf := i, zlb := z, out := o, raw := r }) s k :=
  ⟨_, rfl, failedFrom_failCall ⟨rfl, rfl, rfl, rfl, rfl, rfl, rfl, rfl⟩ rfl rfl rfl rfl⟩

theorem fails_raise_self (k : FailKind) (s : State) : Fails (raise k s) s k := fails_raise k s s.br s.inf s.zlb s.out s.raw

/-- Settles O37. Each of them raises its failure in the state it is met in, a block header after latching its fields. -/
theorem elementsWithoutMeaningFail : Obligations.ElementsWithoutMeaningFail := by
  intro s
  refine ⟨fun b => fails_raise _ s s.br { s.inf with bfinal := b, btype := 3#2 } s.zlb s.out s.raw,
    fun _ => fails_raise_self _ s, fun _ => fails_raise_self _ s, fun _ => fails_raise_self _ s,
    fun _ => fails_raise_self _ s, fun _ => fails_raise_self _ s, fun i hi => ?_⟩
  simp only [List.cons_append, List.nil_append, List.mem_cons, List.not_mem_nil, or_false] at hi
  rcases hi with rfl | rfl | rfl | rfl | rfl | rfl | rfl | rfl | rfl | rfl | rfl | rfl <;> exact fails_raise_self _ s

/-! Block headers and literals. -/

/-- Settles O28. The fields are latched; a stored block aligns. -/
theorem blockHeadersSelectTheBody : Obligations.BlockHeadersSelectTheBody := by
  refine fun b s => ⟨?_, rfl, rfl⟩
  rw [exec, execBlockStored, alignToByte_eq]
  rfl

/-- Settles O32. A literal is one byte appended. -/
theorem literalIsEmitted : Obligations.LiteralIsEmitted :=
  fun v s hw hp => ⟨emit v s, rfl, appended_emit v s hw hp⟩

/-! The extra bits of a code (R118, R148). -/

theorem extraBits_of_le {n : Nat} (h : n ≤ brUnread s) :
    extraBits n s = .ok (bitsLsb s (brPos s) n) (brSeek (brPos s + n) s) := by
  unfold extraBits
  split
  · rename_i hn
    subst hn
    exact congrArg (Res.ok 0) (brSeek_self s).symm
  · exact readBits_of_le h

theorem extraBits_short {n : Nat} (h : brUnread s < n) : extraBits n s = .fail .truncatedStream s := by
  rw [extraBits, if_neg (Nat.ne_of_gt (Nat.zero_lt_of_lt h)), readBits_short h]

/-- The lengths of a length code, whatever its extra bits are (R108). -/
theorem lengthBase_bounds : ∀ k < 29, 3 ≤ lengthBase.getD k 0 ∧ lengthBase.getD k 0 + 2 ^ lengthExtra.getD k 0 ≤ 259 := by
  decide

/-- The distances of a distance code, whatever its extra bits are (R109). -/
theorem distBase_bounds : ∀ d < 30, 1 ≤ distBase.getD d 0 ∧ distBase.getD d 0 + 2 ^ distExtra.getD d 0 ≤ 32769 := by
  decide

/-- Settles O33. The extra bits are read, or are not there; their value stays below the next code's base. -/
theorem lengthCodesLatchTheMatchLength : Obligations.LengthCodesLatchTheMatchLength := by
  intro k i hi s n length
  obtain ⟨hk, -⟩ := List.getElem?_eq_some_iff.1 hi
  obtain ⟨hlow, hhigh⟩ := lengthBase_bounds k hk
  have hextra : bitsLsb s (brPos s) n < 2 ^ lengthExtra.getD k 0 := bitsLsb_lt s (brPos s) n
  rw [exec_lengthInstrs hi, matchLength]
  refine ⟨fun hn => ?_, fun hn => ?_, by omega, by omega⟩
  · rw [extraBits_of_le hn]
    rfl
  · rw [extraBits_short hn]
    exact fails_raise_self _ s

/-- The check of the distance, and the copy (R218, R219). -/
theorem copyMatch_of_le {distance : Nat} (h : distance ≤ s.inf.produced) :
    copyMatch distance s = .next { copyBack distance s.inf.matchLen s with point := .litlenCode } :=
  if_neg (Nat.not_lt.2 h)

theorem copyMatch_of_lt {distance : Nat} (h : s.inf.produced < distance) :
    copyMatch distance s = raise .invalidBackreference s :=
  if_pos h

/-- Settles O34. The distance is checked against what INF has produced; the window then holds the bytes to copy. -/
theorem distanceCodesCopyTheMatch : Obligations.DistanceCodesCopyTheMatch := by
  intro d i hi s n distance
  obtain ⟨hd, -⟩ := List.getElem?_eq_some_iff.1 hi
  obtain ⟨hlow, hhigh⟩ := distBase_bounds d hd
  have hextra : bitsLsb s (brPos s) n < 2 ^ distExtra.getD d 0 := bitsLsb_lt s (brPos s) n
  have h1 : 1 ≤ distance := by omega
  have h2 : distance ≤ 32768 := by omega
  rw [exec_distInstrs hi, matchDistance]
  refine ⟨h1, h2, fun hc hw hp hn hback => ?_, fun hn hback => ?_, fun hn => ?_⟩
  · rw [extraBits_of_le hn, Res.run, copyMatch_of_le (s := brSeek (brPos s + n) s) hback]
    have hstep : (brSeek (brPos s + n) s).InStep := hw.inStep hc hp
    obtain ⟨-, hproduced, -⟩ := hw.inStep hc hp
    obtain ⟨bytes, hlength, hcopy, happended⟩ := copyBack_appends s.inf.matchLen hstep h1 h2 (hproduced ▸ hback)
    exact ⟨bytes, _, rfl, hlength, hcopy, happended⟩
  · rw [extraBits_of_le hn, Res.run, copyMatch_of_lt (s := brSeek (brPos s + n) s) hback]
    exact fails_raise _ s _ s.inf s.zlb s.out s.raw
  · rw [extraBits_short hn]
    exact fails_raise_self _ s

/-! Stored blocks. -/

/-- The state with the two length fields latched (R195). -/
def State.withStored (len nlen : Half) (s : State) : State :=
  { s with inf := { s.inf with storedLen := len, storedNlen := nlen } }

theorem exec_storedLenNlen (len nlen : Half) (s : State) : exec (.storedLenNlen len nlen) s =
    if nlen = ~~~len then (readBytes len.toNat (s.withStored len nlen)).run fun bytes u => finishBlock (emitAll bytes u)
    else raise .malformedContainer (s.withStored len nlen) := rfl

/-- Settles O29. The bytes are read from the next boundary, emitted, and the block ends as any block. -/
theorem storedBlockCopiesItsBytes : Obligations.StoredBlockCopiesItsBytes := by
  intro len nlen s hw hp q
  rw [exec_storedLenNlen]
  refine ⟨fun hc hn => ?_, fun hc hn => ?_, fun hc => ?_⟩
  · have hread : readBytes len.toNat (s.withStored len nlen) = .ok ((List.range len.toNat).map fun k => brByte s (q + k))
        { s.withStored len nlen with br := { s.br with bytePos := q + len.toNat, bitPos := 0#3 } } := readBytes_of_le hn
    rw [if_pos hc, hread, Res.run]
    have happended := appended_emitAll ((List.range len.toNat).map fun k => brByte s (q + k))
      { s.withStored len nlen with br := { s.br with bytePos := q + len.toNat, bitPos := 0#3 } } hw hp
    refine ⟨_, happended, rfl, fun hfinal => ?_⟩
    obtain ⟨heq, -, -⟩ := happended
    refine if_neg fun hb => ?_
    rw [heq] at hb
    cases hfinal.symm.trans hb
  · rw [if_pos hc, readBytes_short (s := s.withStored len nlen) hn]
    exact fails_raise _ s _ { s.inf with storedLen := len, storedNlen := nlen } s.zlb s.out s.raw
  · rw [if_neg hc]
    exact fails_raise _ s s.br { s.inf with storedLen := len, storedNlen := nlen } s.zlb s.out s.raw

/-! Dynamic headers. -/

/-- The state with the three counts latched (R200). -/
def State.withCounts (hlit hdist : BitVec 5) (hclen : BitVec 4) (s : State) : State :=
  { s with inf := { s.inf with hlit := hlit.toNat + 257, hdist := hdist.toNat + 1, hclen := hclen.toNat + 4 } }

/-- The code-length fields as the bits of BR give them (R201). -/
def clenFields (n : Nat) (s : State) : List Nat := (List.range n).map fun i => bitsLsb s (brPos s + 3 * i) 3

theorem clenFields_getD {n i : Nat} (h : i < n) (s : State) : (clenFields n s).getD i 0 = bitsLsb s (brPos s + 3 * i) 3 := by
  rw [clenFields, List.getD_eq_getElem?_getD, List.getElem?_map, List.getElem?_range h]
  rfl

/-- Every length has a place in `ORDER` (R106). -/
theorem clenOrder_idxOf : ∀ j < 19, clenOrder.idxOf j < 19 ∧ clenOrder.getD (clenOrder.idxOf j) 0 = j := by decide

/-- The array that has the fields at their places and 0 elsewhere is `INF.cl_len` (R201). -/
theorem clenLengths_eq {cl : List Nat} {n : Nat} (hlen : cl.length = 19)
    (hcl : ∀ i, i < 19 → cl.getD (clenOrder.getD i 0) 0 = if i < n then bitsLsb s (brPos s + 3 * i) 3 else 0) :
    clenLengths (clenFields n s) = cl := by
  have hlength : (clenLengths (clenFields n s)).length = 19 := by rw [clenLengths, placeClen_length, List.length_replicate]
  refine List.ext_getElem (hlength.trans hlen.symm) fun j hj hj' => ?_
  obtain ⟨hplace, horder⟩ := clenOrder_idxOf j (hlen ▸ hj')
  have hfield := hcl _ hplace
  rw [horder] at hfield
  rw [← getD_of_lt hj 0, ← getD_of_lt hj' 0, hfield, clenLengths, placeClen_getD _ _ _ (by decide) (by decide),
    clenFields, List.length_map, List.length_range, ← clenFields]
  by_cases hn : clenOrder.idxOf j < n
  · rw [if_pos ⟨hplace, hn⟩, if_pos hn, clenFields_getD hn]
  · rw [if_neg fun h => hn h.2, if_neg hn, List.getD_eq_getElem?_getD, List.getElem?_replicate]
    split <;> rfl

theorem exec_dynCounts (hlit hdist : BitVec 5) (hclen : BitVec 4) (s : State) : exec (.dynCounts hlit hdist hclen) s =
    (readClenFields (hclen.toNat + 4) (s.withCounts hlit hdist hclen)).run fun fields u =>
      if admitted (clenLengths fields) 7 then
        .next (releaseHuf { u with
          inf := { u.inf with clLen := clenLengths fields, lens := [] }, tCl := buildTree (clenLengths fields) 7,
          point := .clen })
      else .refused .lengthsNotAdmitted := rfl

/-- Settles O30. The fields are read one after the other, placed by `ORDER`, and the array they give is built. -/
theorem dynamicHeaderBuildsTheLengthCode : Obligations.DynamicHeaderBuildsTheLengthCode := by
  intro hlit hdist hclen s cl n
  rw [exec_dynCounts]
  refine ⟨fun hn hlen hcl => ?_, fun hn => ?_⟩
  · have hread : readClenFields (hclen.toNat + 4) (s.withCounts hlit hdist hclen) =
        .ok (clenFields n s) (brSeek (brPos s + 3 * n) (s.withCounts hlit hdist hclen)) :=
      readClenFields_of_le n (s.withCounts hlit hdist hclen) hn
    rw [hread, Res.run, clenLengths_eq hlen hcl]
    exact ⟨fun hadm => if_pos hadm, fun hadm => if_neg (Bool.eq_false_iff.1 hadm)⟩
  · obtain ⟨b, hb⟩ := readClenFields_short n (s.withCounts hlit hdist hclen) hn
    rw [hb]
    exact fails_raise _ s b (s.withCounts hlit hdist hclen).inf s.zlb s.out s.raw

/-! Code-length symbols. -/

section
variable {i : Instr} {v r n : Nat}

/-- A run whose number of repeats is read from BR (R205). -/
theorem lengthRun_of_le (h : n ≤ brUnread s) (v m : Nat) :
    ((readBits n s).run fun e t => appendLengths v (m + e) t) =
      appendLengths v (m + bitsLsb s (brPos s) n) (brSeek (brPos s + n) s) := by
  rw [readBits_of_le h, Res.run]

theorem lengthRun_short (h : brUnread s < n) (v m : Nat) :
    ((readBits n s).run fun e t => appendLengths v (m + e) t) = raise .truncatedStream s := by
  rw [readBits_short h, Res.run]

theorem exec_clRep (h : s.inf.lens.getLast? = some v) :
    exec .clRep s = (readBits 2 s).run fun e t => appendLengths v (3 + e) t := by
  rw [exec, execClRep, h]

/-- The symbols with extra bits, when these are there and when they are not (R205). -/
theorem exec_codeLengthRun (hi : i ∈ [Instr.clRep, .clZero3, .clZero11]) (h : CodeLengthRun s i v r n) :
    (n ≤ brUnread s → exec i s = appendLengths v r (brSeek (brPos s + n) s)) ∧
      (brUnread s < n → exec i s = raise .truncatedStream s) := by
  obtain ⟨b, rfl, -⟩ | ⟨rfl, hlast, rfl, rfl⟩ | ⟨rfl, rfl, rfl, rfl⟩ | ⟨rfl, rfl, rfl, rfl⟩ := h
  · simp at hi
  · rw [exec_clRep hlast]
    exact ⟨fun hn => lengthRun_of_le hn v 3, fun hn => lengthRun_short hn v 3⟩
  · exact ⟨fun hn => lengthRun_of_le hn 0 3, fun hn => lengthRun_short hn 0 3⟩
  · exact ⟨fun hn => lengthRun_of_le hn 0 11, fun hn => lengthRun_short hn 0 11⟩

/-- A run past the end of the sequence (R206). -/
theorem appendLengths_of_lt (h : s.inf.hlit + s.inf.hdist < s.inf.lens.length + r) :
    appendLengths v r s = raise .invalidTable s :=
  if_pos h

/-- The state after a run of `r` lengths `v` and its `n` extra bits. -/
def State.afterRun (v r n : Nat) (s : State) : State :=
  { brSeek (brPos s + n) s with inf := { s.inf with lens := s.inf.lens ++ List.replicate r v } }

/-- Every symbol whose run fits goes on from the longer sequence (R204 to R206). -/
theorem exec_codeLengthRun_fits (h : CodeLengthRun s i v r n) (hn : n ≤ brUnread s)
    (hfits : s.inf.lens.length + r ≤ s.inf.hlit + s.inf.hdist) : exec i s = lengthsDone (s.afterRun v r n) := by
  have happend : appendLengths v r (brSeek (brPos s + n) s) = lengthsDone (s.afterRun v r n) := if_neg (Nat.not_lt.2 hfits)
  rw [← happend]
  obtain ⟨b, rfl, rfl, rfl, rfl⟩ | ⟨rfl, -⟩ | ⟨rfl, -⟩ | ⟨rfl, -⟩ := id h
  · rw [happend, State.afterRun, Nat.add_zero, brSeek_self]
    rfl
  all_goals exact (exec_codeLengthRun (by decide) h).1 hn

end

/-- Settles O31. A sequence that is full is split at `hlit`: the rest of it is all the distance lengths there are. -/
theorem codeLengthSymbolsExtendTheSequence : Obligations.CodeLengthSymbolsExtendTheSequence := by
  intro s i v r n hrun hn hfits lens u ll d
  rw [exec_codeLengthRun_fits hrun hn hfits]
  have hpart (hfull : lens.length = s.inf.hlit + s.inf.hdist) : (lens.drop s.inf.hlit).take s.inf.hdist = d :=
    List.take_of_length_le (by rw [List.length_drop]; omega)
  have hdone (hfull : lens.length = s.inf.hlit + s.inf.hdist) : lengthsDone u =
      if admitted ll 15 = true ∧ admitted d 15 = true then
        .next (releaseHuf { u with tLl := buildTree ll 15, tD := buildTree d 15, point := .litlenCode })
      else .refused .lengthsNotAdmitted := by
    rw [← hpart hfull]
    exact if_neg (Nat.not_lt.2 (Nat.le_of_eq hfull.symm))
  refine ⟨fun hshort => if_pos hshort, fun hfull hll hd => ?_, fun hfull hbad => ?_⟩
  · exact (hdone hfull).trans (if_pos ⟨hll, hd⟩)
  · refine (hdone hfull).trans (if_neg fun ⟨hll, hd⟩ => ?_)
    rcases hbad with hbad | hbad
    · cases hbad.symm.trans hll
    · cases hbad.symm.trans hd

/-- Settles O36. There is nothing to repeat, the extra bits are not there, or the run is too long. -/
theorem badRunsFailInvalidTable : Obligations.BadRunsFailInvalidTable := by
  refine fun s => ⟨fun hnil => ?_, fun i v r n hi hrun => ?_⟩
  · rw [exec, execClRep, hnil]
    exact fails_raise_self _ s
  · obtain ⟨henough, hshort⟩ := exec_codeLengthRun hi hrun
    refine ⟨fun hn => ?_, fun hn hlong => ?_⟩
    · rw [hshort hn]
      exact fails_raise_self _ s
    · rw [henough hn, appendLengths_of_lt (s := brSeek (brPos s + n) s) hlong]
      exact fails_raise _ s _ s.inf s.zlb s.out s.raw

/-! The end of a block. -/

theorem exec_eob_of_final (h : s.inf.bfinal = true) : exec .eob s = inflateDone s := if_pos h

/-- The sums of `OUT` give the trailer's value (R246, R247). -/
theorem adlerMatches_sumAdler (s : State) : adlerMatches (sumAdler s) = true ↔
    (adlerSums s.out 1 0).2 * 65536 + (adlerSums s.out 1 0).1 = s.zlb.expected.toNat := beq_iff_eq

/-- A final block of `ZLB_DECOMPRESS` (R247). -/
theorem inflateDone_zlib (h : s.running = some .zlib) : inflateDone s =
    if adlerMatches (sumAdler s) = true then .next (endZlib { sumAdler s with resLen := resLenOf s.out.length })
    else raise .malformedContainer (sumAdler s) := by
  rw [inflateDone, h]

/-- A final block of `PNG_DECODE` (R247, R273). -/
theorem inflateDone_png (h : s.running = some .png) : inflateDone s =
    if adlerMatches (sumAdler s) = true then beginRows (sumAdler s) else raise .malformedContainer (sumAdler s) := by
  rw [inflateDone, h]

theorem fails_sumAdler (k : FailKind) (s : State) : Fails (raise k (sumAdler s)) s k :=
  fails_raise k s s.br s.inf (sumAdler s).zlb s.out s.raw

/-- PNG goes on to its rows, or there is too little for them (R274, R275). -/
theorem beginRows_of_le (h : pngNeed s.png ≤ s.out.length) : beginRows s = .next { s with
    raw := s.out, out := [], point := .pngRow,
    png := { s.png with prev := List.replicate (pngRowBytes s.png) 0#8, cur := [], image := [], row := 0 } } :=
  if_neg (Nat.not_lt.2 h)

theorem beginRows_short (h : s.out.length < pngNeed s.png) :
    beginRows s = raise .truncatedStream { s with raw := s.out, out := [] } :=
  if_pos h

/-- Settles O35. After the final block the caller of INF decides; ZLB and PNG look at the Adler-32 first. -/
theorem endOfBlockGoesOnOrEndsTheCall : Obligations.EndOfBlockGoesOnOrEndsTheCall := by
  intro s sums right z
  have hright : adlerMatches (sumAdler s) = true ↔ right := adlerMatches_sumAdler s
  refine ⟨fun hfinal => if_neg (Bool.eq_false_iff.1 hfinal), fun hfinal hrun => ?_, fun hfinal hrun => ?_,
    fun hfinal hrun => ?_⟩
  · rw [exec_eob_of_final hfinal, inflateDone, hrun]
    rfl
  · rw [exec_eob_of_final hfinal, inflateDone_zlib hrun]
    refine ⟨fun hr => ?_, fun hr => ?_⟩
    · rw [if_pos (hright.2 hr)]
      obtain ⟨b, hb, heq⟩ := endZlib_eq { sumAdler s with resLen := resLenOf s.out.length }
      exact ⟨b, hb, congrArg Host.Outcome.next heq⟩
    · rw [if_neg (mt hright.1 hr)]
      exact fails_sumAdler _ s
  · rw [exec_eob_of_final hfinal, inflateDone_png hrun]
    refine ⟨fun hr hneed => ?_, fun hr hneed => ?_, fun hr => ?_⟩
    · rw [if_pos (hright.2 hr), beginRows_of_le (s := sumAdler s) hneed]
      rfl
    · rw [if_pos (hright.2 hr), beginRows_short (s := sumAdler s) hneed]
      exact fails_raise _ s s.br s.inf (sumAdler s).zlb [] s.out
    · rw [if_neg (mt hright.1 hr)]
      exact fails_sumAdler _ s

end Sys2Proof.Machine

/-! SUPPORT. What each control point fetches (10_state.md R21), exactly; the fixed codes and the symbols of a JPEG block have
their own statements. -/

namespace Sys2Proof.Machine

variable {s : State} {f : Format}

/-! Fields and symbols of BR (42_inflate.md R191, R195, R200, R203, R210, R217). -/

theorem fetch_header {p : Point} {n : Nat}
    (hrow : (p, f, n) ∈ [(Point.blockHdr, Format.blockHdr, 3), (.stored, .stored, 32), (.dynHdr, .dynHdr, 14)])
    (hp : s.point = p) : fetch s = .ofRes f (readBits n s) := by
  simp only [List.mem_cons, Prod.mk.injEq, List.not_mem_nil, or_false] at hrow
  rcases hrow with ⟨rfl, rfl, rfl⟩ | ⟨rfl, rfl, rfl⟩ | ⟨rfl, rfl, rfl⟩ <;> simp only [fetch, hp]

theorem fetch_symbol {p : Point} {tree : Tree}
    (hrow : (p, f, tree) ∈ [(Point.clen, Format.clen, s.tCl), (.litlenCode, .litlen, s.tLl), (.distCode, .dist, s.tD)])
    (hp : s.point = p) (hb : p = .clen ∨ s.inf.btype ≠ 1#2) : fetch s = fetchSymbol f tree s := by
  simp only [List.mem_cons, Prod.mk.injEq, List.not_mem_nil, or_false] at hrow
  rcases hrow with ⟨rfl, rfl, rfl⟩ | ⟨rfl, rfl, rfl⟩ | ⟨rfl, rfl, rfl⟩
  · simp only [fetch, hp]
  · simp only [fetch, hp, hb.resolve_left nofun, if_false]
  · simp only [fetch, hp, hb.resolve_left nofun, if_false]

theorem fetchSymbol_valid {tree : Tree} (h : tree.valid = true) : fetchSymbol f tree s = .ofRes f (decodeSymbol tree s) :=
  if_pos h

theorem fetchSymbol_not_valid {tree : Tree} (h : tree.valid = false) : fetchSymbol f tree s = .refuse .treeNotValid :=
  if_neg (Bool.eq_false_iff.1 h)

/-! Bytes of the containers (44_png.md R261, R262, R264; 48_jpeg_decoder.md R361, R362, R384). -/

theorem fetch_pngSignature (hp : s.point = .pngSignature) : fetch s = fetchSignature s := by simp only [fetch, hp]

theorem fetch_pngChunk (hp : s.point = .pngChunk) : fetch s = fetchChunk s := by simp only [fetch, hp]

theorem fetch_jpegSoi (hp : s.point = .jpegSoi) : fetch s = fetchSoi s := by simp only [fetch, hp]

theorem fetch_jpegMarker (hp : s.point = .jpegMarker) : fetch s = fetchMarker s := by simp only [fetch, hp]

theorem fetch_jpegRestart (hp : s.point = .jpegRestart) : fetch s = fetchRestart s := by simp only [fetch, hp]

/-- Byte strings of one length are told apart by their numbers (R11). -/
theorem foldl_be_inj {xs ys : List Byte} (hlen : xs.length = ys.length) {a b : Nat}
    (h : xs.foldl (fun n v => n * 256 + v.toNat) a = ys.foldl (fun n v => n * 256 + v.toNat) b) : a = b ∧ xs = ys := by
  induction xs generalizing ys a b with
  | nil =>
    obtain rfl := List.length_eq_zero_iff.1 hlen.symm
    exact ⟨h, rfl⟩
  | cons x xs ih =>
    obtain ⟨y, ys, rfl⟩ : ∃ y zs, ys = y :: zs := List.exists_cons_of_length_eq_add_one hlen.symm
    obtain ⟨hhead, rfl⟩ := ih (Nat.succ.inj hlen) h
    replace hhead : a * 256 + x.toNat = b * 256 + y.toNat := hhead
    have hx := x.isLt
    have hy := y.isLt
    have hbyte : x = y := BitVec.eq_of_toNat_eq (by omega)
    exact ⟨by omega, by rw [hbyte]⟩

theorem beNat_inj {xs ys : List Byte} (hlen : xs.length = ys.length) : beNat xs = beNat ys ↔ xs = ys :=
  ⟨fun h => (foldl_be_inj hlen h).2, congrArg beNat⟩

theorem inBytes_length (s : State) (i n : Nat) : (inBytes s i n).length = n := by
  rw [inBytes, List.length_map, List.length_range]

/-- Two bytes are the number that their values spell (R11). -/
theorem be16_eq_iff (x y a b : Byte) : be16 x y = be16 a b ↔ x = a ∧ y = b := by
  have hx := x.isLt
  have hy := y.isLt
  have ha := a.isLt
  have hb := b.isLt
  rw [be16, be16, ← BitVec.toNat_inj, ← BitVec.toNat_inj]
  omega

theorem be16_marker (b : Byte) : be16 0xFF#8 b = 0xFF00 + b.toNat := by
  show 255 * 256 + b.toNat = _
  omega

theorem fetch_signature_of_le (hp : s.point = .pngSignature) (h : 8 ≤ inLength s) : fetch s =
    if inBytes s 0 8 = [0x89#8, 0x50#8, 0x4E#8, 0x47#8, 0x0D#8, 0x0A#8, 0x1A#8, 0x0A#8] then
      .element .pngFile 0x89504E470D0A1A0A s
    else .fail .malformedContainer s := by
  have hsignature : beNat (inBytes s 0 8) = 0x89504E470D0A1A0A ↔
      inBytes s 0 8 = [0x89#8, 0x50#8, 0x4E#8, 0x47#8, 0x0D#8, 0x0A#8, 0x1A#8, 0x0A#8] :=
    beNat_inj (ys := [0x89#8, 0x50#8, 0x4E#8, 0x47#8, 0x0D#8, 0x0A#8, 0x1A#8, 0x0A#8]) (inBytes_length s 0 8)
  rw [fetch_pngSignature hp, fetchSignature, if_neg (Nat.not_lt.2 h)]
  simp only [ne_eq, hsignature, ite_not]
  split
  · rename_i hbytes
    rw [hsignature.2 hbytes]
  · rfl

theorem fetch_chunk_short (hp : s.point = .pngChunk) (h : inLength s < s.png.pos + 12 + beNat (inBytes s s.png.pos 4)) :
    ∃ t, fetch s = .fail .truncatedStream t := by
  rw [fetch_pngChunk hp, fetchChunk]
  split
  · exact ⟨_, rfl⟩
  · exact ⟨_, if_pos (show inLength s - s.png.pos - 8 < beNat (inBytes s s.png.pos 4) + 4 by omega)⟩

theorem fetch_chunk_of_le (hp : s.point = .pngChunk) (h : s.png.pos + 12 + beNat (inBytes s s.png.pos 4) ≤ inLength s) :
    fetch s = if crc32 s.crcT (inBytes s (s.png.pos + 4) (4 + (latchChunk s).png.chunkLength)) = (latchChunk s).png.chunkCrc
      then .element .pngChunk (latchChunk s).png.chunkType.toNat (latchChunk s)
      else .fail .malformedContainer (latchChunk s) := by
  rw [fetch_pngChunk hp, fetchChunk]
  have hchunk : ¬ inLength s - s.png.pos - 8 < (latchChunk s).png.chunkLength + 4 :=
    show ¬ inLength s - s.png.pos - 8 < beNat (inBytes s s.png.pos 4) + 4 by omega
  rw [if_neg (show ¬ inLength s - s.png.pos < 8 by omega), if_neg hchunk]
  simp only [ne_eq, ite_not]

theorem fetch_soi_of_le (hp : s.point = .jpegSoi) (h : 2 ≤ inLength s) : fetch s =
    if inByte s 0 = 0xFF#8 ∧ inByte s 1 = 0xD8#8 then .element .jpegMarker 0xFFD8 s else .fail .malformedContainer s := by
  have hmarker : be16 (inByte s 0) (inByte s 1) = 0xFFD8 ↔ inByte s 0 = 0xFF#8 ∧ inByte s 1 = 0xD8#8 :=
    be16_eq_iff _ _ 0xFF#8 0xD8#8
  rw [fetch_jpegSoi hp, fetchSoi, if_neg (Nat.not_lt.2 h)]
  simp only [ne_eq, hmarker, ite_not]

theorem fetch_marker_of_le (hp : s.point = .jpegMarker) (h : s.jdec.pos + 2 ≤ inLength s) : fetch s =
    if inByte s s.jdec.pos = 0xFF#8 ∧ inByte s (s.jdec.pos + 1) ≠ 0x00#8 ∧ inByte s (s.jdec.pos + 1) ≠ 0xFF#8 then
      .element .jpegMarker (0xFF00 + (inByte s (s.jdec.pos + 1)).toNat) { s with jdec := { s.jdec with pos := s.jdec.pos + 2 } }
    else .fail .malformedContainer s := by
  rw [fetch_jpegMarker hp, fetchMarker]
  dsimp only
  rw [if_neg (show ¬ inLength s - s.jdec.pos < 2 by omega)]
  have hbad : (inByte s s.jdec.pos ≠ 0xFF#8 ∨ inByte s (s.jdec.pos + 1) = 0x00#8 ∨ inByte s (s.jdec.pos + 1) = 0xFF#8) ↔
      ¬ (inByte s s.jdec.pos = 0xFF#8 ∧ inByte s (s.jdec.pos + 1) ≠ 0x00#8 ∧ inByte s (s.jdec.pos + 1) ≠ 0xFF#8) := by
    simp only [Classical.not_and_iff_not_or_not, ne_eq, Classical.not_not]
  simp only [hbad, ite_not]
  split
  · rename_i hmarker
    rw [hmarker.1, be16_marker]
  · rfl

theorem fetch_restart_of_le (hp : s.point = .jpegRestart) (h : s.jbr.pos + 2 ≤ inLength s) : fetch s =
    if inByte s s.jbr.pos = 0xFF#8 ∧ (inByte s (s.jbr.pos + 1)).toNat = 0xD0 + s.jdec.rstNext then
      .element .jpegMarker (0xFFD0 + s.jdec.rstNext) { s with jbr := { s.jbr with cnt := 0 } }
    else .fail .malformedContainer { s with jbr := { s.jbr with cnt := 0 } } := by
  rw [fetch_jpegRestart hp, fetchRestart]
  dsimp only
  rw [if_neg (show ¬ inLength s - s.jbr.pos < 2 by omega)]
  have hbad : (inByte s s.jbr.pos ≠ 0xFF#8 ∨ (inByte s (s.jbr.pos + 1)).toNat ≠ 0xD0 + s.jdec.rstNext) ↔
      ¬ (inByte s s.jbr.pos = 0xFF#8 ∧ (inByte s (s.jbr.pos + 1)).toNat = 0xD0 + s.jdec.rstNext) := by
    rw [Classical.not_and_iff_not_or_not]
  simp only [hbad, ite_not]
  split
  · rename_i hmarker
    rw [hmarker.1, be16_marker, hmarker.2, ← Nat.add_assoc]
  · rfl

/-- Settles O19, control point by control point. -/
theorem fetchReadsAtTheCursor : Obligations.FetchReadsAtTheCursor := by
  intro s
  refine ⟨fun p f n hrow hp => ?_, fun p f tree hrow hp hb => ?_, fun hp => ?_, fun hp => ?_, fun hp => ?_, fun hp => ?_,
    fun hp => ⟨fetch_chunk_short hp, fetch_chunk_of_le hp⟩, fun hp => ?_, fun hp => ?_, fun hp => ?_, fun hp => ?_, fun hp => ?_,
    fun hp => ?_⟩
  · rw [fetch_header hrow hp]
    exact ⟨fun hn => congrArg (Fetched.ofRes f) (readBits_of_le hn), fun hn => congrArg (Fetched.ofRes f) (readBits_short hn)⟩
  · rw [fetch_symbol hrow hp hb]
    refine ⟨fun hvalid => ?_, fetchSymbol_not_valid⟩
    rw [fetchSymbol_valid hvalid]
    refine ⟨fun n v hn hcode => congrArg (Fetched.ofRes f) (decodeSymbol_of_code hn hcode),
      fun n m hpath => ⟨fun hn hmiss => congrArg (Fetched.ofRes f) (decodeSymbol_of_missing hn hpath hmiss), fun hn => ?_⟩⟩
    subst hn
    exact congrArg (Fetched.ofRes f) (decodeSymbol_of_exhausted hpath)
  · simp only [fetch, hp]
  · simp only [fetch, hp]
  · simp only [fetch, hp, zlibByte, be16]
  · refine ⟨fun hshort => ?_, fun henough => ?_⟩
    · rw [fetch_pngSignature hp]
      exact if_pos hshort
    · rw [fetch_signature_of_le hp henough]
      exact ⟨fun heq => if_pos heq, fun hne => if_neg hne⟩
  · simp only [fetch, hp]
  · rcases hp with hp | hp <;> simp only [fetch, hp]
  · simp only [fetch, hp, pngRowStart]
  · refine ⟨fun hshort => ?_, fetch_soi_of_le hp⟩
    rw [fetch_jpegSoi hp]
    exact if_pos hshort
  · refine ⟨fun hshort => ?_, fetch_marker_of_le hp⟩
    rw [fetch_jpegMarker hp]
    exact if_pos (show inLength s - s.jdec.pos < 2 by omega)
  · refine ⟨fun hshort => ?_, fetch_restart_of_le hp⟩
    rw [fetch_jpegRestart hp]
    exact if_pos (show inLength s - s.jbr.pos < 2 by omega)

end Sys2Proof.Machine

/-! SUPPORT. ZLB: the running Adler-32 sums in closed form (43_zlib.md R246), the header and the start of the command
(R240 to R244). -/

namespace Sys2Proof.Machine

/-! The Adler-32 sums. -/

/-- Each byte times the number of bytes from it to the end (R246). -/
def weightedSum (bytes : List Byte) : Nat :=
  ((List.range bytes.length).map fun i => (bytes.length - i) * (bytes.getD i 0#8).toNat).sum

theorem weightedSum_cons (v : Byte) (rest : List Byte) :
    weightedSum (v :: rest) = (rest.length + 1) * v.toNat + weightedSum rest := by
  have htail (i : Nat) : (rest.length + 1 - (i + 1)) * ((v :: rest).getD (i + 1) 0#8).toNat =
      (rest.length - i) * (rest.getD i 0#8).toNat := by
    rw [Nat.add_sub_add_right, List.getD_cons_succ]
  simp only [weightedSum, List.length_cons, List.range_succ_eq_map, List.map_cons, List.map_map, List.sum_cons,
    Function.comp_def, Nat.succ_eq_add_one, htail, Nat.sub_zero, List.getD_cons_zero]

/-- One byte moves both sums, of which only the residues matter (R246). -/
theorem adlerSums_cons (v : Byte) (rest : List Byte) (a b : Nat) :
    adlerSums (v :: rest) (a % 65521) (b % 65521) =
      adlerSums rest ((a + v.toNat) % 65521) ((b + (a + v.toNat)) % 65521) := by
  rw [adlerSums, Nat.mod_add_mod, ← Nat.add_mod]

/-- From any sums, `a` is added to `b` once for each byte, and a byte as often as there are bytes from it to the end. -/
theorem adlerSums_eq (bytes : List Byte) (a b : Nat) :
    adlerSums bytes (a % 65521) (b % 65521) =
      ((a + (bytes.map (·.toNat)).sum) % 65521, (b + bytes.length * a + weightedSum bytes) % 65521) := by
  induction bytes generalizing a b with
  | nil => simp [adlerSums, weightedSum]
  | cons v rest ih =>
    have hb : b + (a + v.toNat) + rest.length * (a + v.toNat) + weightedSum rest =
        b + (rest.length + 1) * a + ((rest.length + 1) * v.toNat + weightedSum rest) := by
      rw [Nat.mul_add, Nat.succ_mul, Nat.succ_mul]
      omega
    rw [adlerSums_cons, ih, hb, weightedSum_cons, List.map_cons, List.sum_cons, List.length_cons, Nat.add_assoc]

/-- Settles O40. The sums start at 1 and 0, so each byte brings the 1 into `b` once: the length. -/
theorem adlerSumsAreTheWeightedSums : Obligations.AdlerSumsAreTheWeightedSums := by
  intro bytes
  have hsums := adlerSums_eq bytes 1 0
  rwa [Nat.zero_add, Nat.mul_one] at hsums

/-! The header. -/

section
variable {cmf flg : Byte} {s : State}

theorem zlibHeaderFail_of_method (hm : cmf.toNat % 16 ≠ 8) : zlibHeaderFail cmf flg = some .malformedContainer :=
  if_pos hm

theorem zlibHeaderFail_of_check (hm : cmf.toNat % 16 = 8) (hc : (cmf.toNat * 256 + flg.toNat) % 31 ≠ 0) :
    zlibHeaderFail cmf flg = some .malformedContainer :=
  (if_neg (not_not_intro hm)).trans (if_pos hc)

/-- After the first two checks the preset dictionary decides (R243). -/
theorem zlibHeaderFail_of_dict (hm : cmf.toNat % 16 = 8) (hc : (cmf.toNat * 256 + flg.toNat) % 31 = 0) :
    zlibHeaderFail cmf flg = if flg.getLsbD 5 = true then some .unsupportedFeature else none :=
  (if_neg (not_not_intro hm)).trans (if_neg (not_not_intro hc))

/-- A header that is not accepted fails with its kind, `CMF` and `FLG` latched. -/
theorem fails_zlibHdr {k : FailKind} (h : zlibHeaderFail cmf flg = some k) : Fails (exec (.zlibHdr cmf flg) s) s k := by
  rw [exec, execZlibHdr, h]
  exact fails_raise k s s.br s.inf { s.zlb with cmf := cmf, flg := flg } s.out s.raw

/-- An accepted header starts INF on the body (R242, R244). -/
theorem exec_zlibHdr (h : zlibHeaderFail cmf flg = none) : exec (.zlibHdr cmf flg) s =
    .next { bindBr (zlibSpace s) 2 (zlibLength s - 6) s with
      zlb := { s.zlb with cmf := cmf, flg := flg, expected := zlibTrailer s }, inf := .init, out := [], point := .blockHdr } := by
  rw [exec, execZlibHdr, h]
  rfl

/-- A stream below 6 bytes fails at the command, and both cursors are closed (R103, R240, R407). -/
theorem failsClosed_zlbDecompress (hr : s.Ready) (h : inLength s < 6) :
    FailsClosed (exec .zlbDecompress s) s .truncatedStream := by
  have hshort : zlibLength (beginStream .zlib s) < 6 := h
  rw [exec, execZlbDecompress, whenIdle_ready hr, beginZlib, if_pos hshort]
  exact ⟨_, rfl, failedFrom_failCall ⟨rfl, rfl, rfl, rfl, rfl, rfl, rfl, rfl⟩ rfl rfl rfl rfl, rfl, Bool.and_false _⟩

theorem FailsClosed.fails {o : Out} {k : FailKind} (h : FailsClosed o s k) : Fails o s k := by
  obtain ⟨t, ho, hfailed, -, -⟩ := h
  exact ⟨t, ho, hfailed⟩

end

/-- Settles O39. The checks are made one after the other; a stream below 6 bytes never comes to them. -/
theorem zlibHeaderIsCheckedInOrder : Obligations.ZlibHeaderIsCheckedInOrder := by
  intro cmf flg s n
  refine ⟨fun hm => fails_zlibHdr (zlibHeaderFail_of_method hm), fun hm hc => fails_zlibHdr (zlibHeaderFail_of_check hm hc),
    fun hm hc hd => ?_, fun hm hc hd => ?_, fun hr hshort => (failsClosed_zlbDecompress hr hshort).fails⟩
  · exact fails_zlibHdr ((zlibHeaderFail_of_dict hm hc).trans (if_pos hd))
  · exact exec_zlibHdr ((zlibHeaderFail_of_dict hm hc).trans (if_neg (Bool.eq_false_iff.1 hd)))

end Sys2Proof.Machine

/-! SUPPORT. PNG chunks and the header: the exact outcome of each element (44_png.md R260 to R273). -/

namespace Sys2Proof.Machine

section
variable {s : State}

/-- A failure raised where only the registers of PNG and the note of the call differ from those of the call's state. -/
theorem fails_raise_png (k : FailKind) (s : State) (p : Png) (r : Option Call) :
    Fails (raise k { s with png := p, running := r }) s k :=
  ⟨_, rfl, failedFrom_failCall ⟨rfl, rfl, rfl, rfl, rfl, rfl, rfl, rfl⟩ rfl rfl rfl rfl⟩

/-! The chunks. -/

theorem fails_chunkIhdr (h : s.png.seenIhdr = true ∨ s.png.chunkLength ≠ 13) :
    Fails (exec .chunkIhdr s) s .malformedContainer := by
  rw [exec, execChunkIhdr]
  split
  · exact fails_raise_self _ s
  · rename_i hseen
    rw [if_pos (h.resolve_left hseen)]
    exact fails_raise_self _ s

theorem exec_chunkIhdr (hseen : s.png.seenIhdr = false) (hl : s.png.chunkLength = 13) :
    exec .chunkIhdr s = .next { s with point := .pngIhdr } := by
  rw [exec, execChunkIhdr, hseen, if_neg Bool.false_ne_true, if_neg (not_not_intro hl)]

theorem fails_chunkPlte (h : s.png.seenIhdr = false ∨ s.png.seenPlte = true ∨ s.png.chunkLength = 0 ∨
    s.png.chunkLength % 3 ≠ 0 ∨ 768 < s.png.chunkLength) : Fails (exec .chunkPlte s) s .malformedContainer := by
  rw [exec, execChunkPlte]
  split
  · exact fails_raise_self _ s
  · rename_i hplace
    rw [if_pos ((or_assoc.2 h).resolve_left hplace)]
    exact fails_raise_self _ s

theorem exec_chunkPlte (hseen : s.png.seenIhdr = true) (hplte : s.png.seenPlte = false) (h0 : s.png.chunkLength ≠ 0)
    (h3 : s.png.chunkLength % 3 = 0) (hmax : s.png.chunkLength ≤ 768) :
    exec .chunkPlte s =
      .next (nextChunk { s with png := { s.png with plte := paletteOf (chunkData s), seenPlte := true } }) := by
  rw [exec, execChunkPlte, hseen, hplte, if_neg (by decide), if_neg (by omega)]

/-- The palette of a chunk, entry by entry (R269). -/
theorem paletteOf_chunkData (h3 : s.png.chunkLength % 3 = 0) :
    (paletteOf (chunkData s)).length = s.png.chunkLength / 3 ∧ ∀ i, i < s.png.chunkLength / 3 →
      (paletteOf (chunkData s))[i]? =
        some { r := chunkByte s (3 * i), g := chunkByte s (3 * i + 1), b := chunkByte s (3 * i + 2) } := by
  have hlength : (chunkData s).length = 3 * (s.png.chunkLength / 3) := by
    rw [chunkData, inBytes_length]
    omega
  have hbyte {j : Nat} (hj : j < s.png.chunkLength) : (chunkData s).getD j 0#8 = chunkByte s j := by
    simp only [chunkData, inBytes, chunkByte, List.getD_eq_getElem?_getD, List.getElem?_map,
      List.getElem?_range hj, Option.map_some, Option.getD_some]
  obtain ⟨hcount, hentry⟩ := paletteOf_spec _ _ hlength
  refine ⟨hcount, fun i hi => ?_⟩
  rw [hentry i hi, hbyte (by omega), hbyte (by omega), hbyte (by omega)]

theorem fails_chunkIdat (h : s.png.seenIhdr = false) : Fails (exec .chunkIdat s) s .malformedContainer := by
  rw [exec, execChunkIdat, if_pos h]
  exact fails_raise_self _ s

theorem exec_chunkIdat (h : s.png.seenIhdr = true) : exec .chunkIdat s =
    .next (nextChunk { s with idat := s.idat ++ chunkData s, png := { s.png with seenIdat := true } }) := by
  rw [exec, execChunkIdat, h, if_neg nofun]

theorem fails_chunkIend (h : s.png.seenIhdr = false) : Fails (exec .chunkIend s) s .malformedContainer := by
  rw [exec, execChunkIend, if_pos h]
  exact fails_raise_self _ s

/-- After IEND, ZLB works on `IDAT` (R271, R273). -/
theorem exec_chunkIend_of_seen (h : s.png.seenIhdr = true) : exec .chunkIend s =
    if s.idat.length < 6 then raise .truncatedStream { s with running := some .png }
    else .next { s with running := some .png, point := .zlibHdr } := by
  rw [exec, execChunkIend, h, if_neg nofun]
  rfl

end

/-- Settles O41. Each chunk passes its tests and has its effect, or fails the first test that it does not pass; which orders
of chunks pass is the model's choice (log 13). -/
theorem pngChunksActAsTheirRulesSay : Obligations.PngChunksActAsTheirRulesSay := by
  intro s l pos
  refine ⟨rfl, exec_chunkIhdr, fails_chunkIhdr, fun hseen hplte h0 h3 hmax => ?_, fails_chunkPlte, exec_chunkIdat,
    fails_chunkIdat, fun hseen henough => ?_, fun hseen hshort => ?_, fails_chunkIend, fun _ => rfl⟩
  · exact ⟨_, exec_chunkPlte hseen hplte h0 h3 hmax, paletteOf_chunkData h3⟩
  · rw [exec_chunkIend_of_seen hseen, if_neg (Nat.not_lt.2 henough)]
  · rw [exec_chunkIend_of_seen hseen, if_pos hshort]
    exact fails_raise_png _ s s.png (some .png)

/-! The header. -/

section
variable {s : State} {i : Instr} {ct : Nat} {depths : List Nat}

/-- What the hardware accepts of a header whose colour type allows `depths` (R266 to R268). -/
def Png.Supported (p : Png) (depths : List Nat) : Prop :=
  p.bitDepth.toNat ∈ depths ∧ p.interlace = 0#8 ∧ p.compression = 0#8 ∧ p.filterMethod = 0#8

/-- The end of `do_ihdr` (R265). -/
theorem checkHeader_of_supported {legal : List Nat} (h : s.png.Supported legal) (h16 : s.png.bitDepth ≠ 16#8) :
    checkHeader legal s = .next (nextChunk { s with png := { s.png with seenIhdr := true } }) := by
  obtain ⟨hdepth, hinterlace, hcompression, hfilter⟩ := h
  rw [checkHeader, List.contains_iff_mem.2 hdepth, if_neg (by decide), if_neg h16, if_neg (not_not_intro hinterlace),
    if_neg (by simp [hcompression, hfilter])]

/-- Whichever check it is that fails, the kind is the same (R266 to R268). -/
theorem checkHeader_of_not_supported {legal : List Nat} (h : s.png.bitDepth ≠ 16#8 → ¬ s.png.Supported legal) :
    checkHeader legal s = raise .unsupportedFeature s := by
  unfold checkHeader
  split
  · rfl
  split
  · rfl
  split
  · rfl
  split
  · rfl
  · rename_i hdepth h16 hinterlace hmethods
    refine absurd ⟨?_, Decidable.not_not.1 hinterlace, ?_⟩ (h h16)
    · simpa using hdepth
    · simpa using hmethods

/-- A colour type away from the conversion checks the header; 16 bits are legal, but not accepted (R266, R267). -/
theorem exec_color_check (hrow : (i, ct, depths) ∈ colorRows) (hp : s.point ≠ .pngConvert) :
    ∃ legal, exec i s = checkHeader legal s ∧ ∀ d, d ∈ depths ↔ d ∈ legal ∧ d ≠ 16 := by
  simp only [colorRows, List.mem_cons, Prod.mk.injEq, List.not_mem_nil, or_false] at hrow
  obtain ⟨rfl, -, rfl⟩ | ⟨rfl, -, rfl⟩ | ⟨rfl, -, rfl⟩ | ⟨rfl, -, rfl⟩ | ⟨rfl, -, rfl⟩ := hrow
  all_goals
    refine ⟨_, if_neg hp, fun d => ?_⟩
    simp only [List.mem_cons, List.not_mem_nil, or_false]
    omega

/-- The outcome of a colour type away from the conversion. -/
theorem exec_color (hrow : (i, ct, depths) ∈ colorRows) (hp : s.point ≠ .pngConvert) :
    (s.png.Supported depths → exec i s = .next (nextChunk { s with png := { s.png with seenIhdr := true } })) ∧
      (¬ s.png.Supported depths → exec i s = raise .unsupportedFeature s) := by
  obtain ⟨legal, hexec, hlegal⟩ := exec_color_check hrow hp
  have h16 : s.png.bitDepth = 16#8 ↔ s.png.bitDepth.toNat = 16 := BitVec.toNat_inj.symm
  rw [hexec]
  refine ⟨fun ⟨hdepth, hrest⟩ => ?_, fun hnot => checkHeader_of_not_supported fun hne ⟨hdepth, hrest⟩ => hnot ⟨?_, hrest⟩⟩
  · obtain ⟨hmem, hne⟩ := (hlegal _).1 hdepth
    exact checkHeader_of_supported ⟨hmem, hrest⟩ (mt h16.1 hne)
  · exact (hlegal _).2 ⟨hdepth, mt h16.2 hne⟩

/-- The rows of the colour types are those of the decoder (R113). -/
theorem decode_colorRows (hrow : (i, ct, depths) ∈ colorRows) : decode .pngColor ct = .ok i := by
  simp only [colorRows, List.mem_cons, Prod.mk.injEq, List.not_mem_nil, or_false] at hrow
  obtain ⟨rfl, rfl, -⟩ | ⟨rfl, rfl, -⟩ | ⟨rfl, rfl, -⟩ | ⟨rfl, rfl, -⟩ | ⟨rfl, rfl, -⟩ := hrow <;> rfl

end

theorem exec_ihdrPayload_next {w h : Word} (hw : w ≠ 0#32) (hh : h ≠ 0#32) (d c co f l : Byte) (s : State) :
    exec (.ihdrPayload w h d c co f l) s = .next { s with
      png := { s.png with
        width := w, height := h, bitDepth := d, colorType := c, compression := co, filterMethod := f, interlace := l },
      point := .pngCheck } :=
  if_neg (not_or.2 ⟨hw, hh⟩)

theorem fails_ihdrPayload {w h : Word} (h0 : w = 0#32 ∨ h = 0#32) (d c co f l : Byte) (s : State) :
    Fails (exec (.ihdrPayload w h d c co f l) s) s .malformedContainer := by
  rw [exec, execIhdrPayload, if_pos h0]
  exact fails_raise_png _ s _ s.running

/-- Settles O42. The fields are latched before the size check; the colour type is checked with the rest, each check with the
same failure. -/
theorem pngHeaderIsLatchedAndChecked : Obligations.PngHeaderIsLatchedAndChecked := by
  refine ⟨fun w h d c co f l s => ⟨fun hw hh => exec_ihdrPayload_next hw hh d c co f l s,
    fun h0 => fails_ihdrPayload h0 d c co f l s⟩, fun i ct depths hrow => ⟨decode_colorRows hrow, fun s hp => ?_⟩⟩
  obtain ⟨hnext, hraise⟩ := exec_color hrow hp
  refine ⟨hnext, fun hnot => ?_⟩
  rw [hraise hnot]
  exact fails_raise_self _ s

end Sys2Proof.Machine

/-! SUPPORT. PNG rows: the scanline geometry, the five filters and the Paeth predictor (44_png.md R274 to R282). -/

namespace Sys2Proof.Machine

/-! The Paeth predictor. -/

/-- Settles O45. The two comparisons are those of the definition, so each clause is linear arithmetic on the distances. -/
theorem paethPicksTheNearest : Obligations.PaethPicksTheNearest := by
  intro a b c far
  have hpaeth : paeth a b c = if far a ≤ far b ∧ far a ≤ far c then a else if far b ≤ far c then b else c := rfl
  rw [hpaeth]
  split
  · rename_i ha
    obtain ⟨hab, hac⟩ := ha
    exact ⟨.inl rfl, ⟨Nat.le_refl _, hab, hac⟩, fun _ _ => rfl, fun hba _ => absurd hab (Nat.not_le.2 hba),
      fun hca _ => absurd hac (Nat.not_le.2 hca)⟩
  split
  · rename_i ha hbc
    have hba : far b < far a := by omega
    exact ⟨.inr (.inl rfl), ⟨Nat.le_of_lt hba, Nat.le_refl _, hbc⟩, fun hab hac => absurd ⟨hab, hac⟩ ha, fun _ _ => rfl,
      fun _ hcb => absurd hbc (Nat.not_le.2 hcb)⟩
  · rename_i ha hbc
    have hcb : far c < far b := Nat.not_le.1 hbc
    have hca : far c < far a := by omega
    exact ⟨.inr (.inr rfl), ⟨Nat.le_of_lt hca, Nat.le_of_lt hcb, Nat.le_refl _⟩, fun hab hac => absurd ⟨hab, hac⟩ ha,
      fun _ hbc' => absurd hbc' hbc, fun _ _ => rfl⟩

/-! The filter direction and the reconstruction. -/

section
variable {pred : Byte → Byte → Byte → Byte} {bpp : Nat} {prev row : List Byte}

theorem filterRow_length (pred : Byte → Byte → Byte → Byte) (bpp : Nat) (prev row : List Byte) :
    (filterRow pred bpp prev row).length = row.length := by
  rw [filterRow, List.length_map, List.length_range]

theorem filterRow_getD {x : Nat} (hx : x < row.length) : (filterRow pred bpp prev row).getD x 0#8 =
    row.getD x 0#8 - pred (leftByte bpp row x) (prev.getD x 0#8) (leftByte bpp prev x) := by
  rw [filterRow, List.getD_eq_getElem?_getD, List.getElem?_map, List.getElem?_range hx, Option.map_some, Option.getD_some]

/-- Rows of one length are equal when their bytes are. -/
theorem row_ext {a b : List Byte} (hlength : a.length = b.length)
    (hbyte : ∀ x, x < b.length → a.getD x 0#8 = b.getD x 0#8) : a = b := by
  refine List.ext_getElem hlength fun x ha hb => ?_
  have hx := hbyte x hb
  rwa [List.getD_eq_getElem?_getD, List.getD_eq_getElem?_getD, List.getElem?_eq_getElem ha, List.getElem?_eq_getElem hb,
    Option.getD_some, Option.getD_some] at hx

theorem filterRow_unfilterRow (hb : 1 ≤ bpp) : filterRow pred bpp prev (unfilterRow pred bpp prev row) = row := by
  obtain ⟨hlength, hbyte⟩ := unfilterRow_spec pred bpp prev hb row
  refine row_ext ((filterRow_length _ _ _ _).trans hlength) fun x hx => ?_
  rw [filterRow_getD (hlength.symm ▸ hx), hbyte x hx, BitVec.add_sub_cancel]

/-- The byte to the left is an earlier one, so rows that agree before `x` have the same one there (R275). -/
theorem leftByte_congr {a b : List Byte} {x : Nat} (hb : 1 ≤ bpp) (h : ∀ y, y < x → a.getD y 0#8 = b.getD y 0#8) :
    leftByte bpp a x = leftByte bpp b x := by
  unfold leftByte
  split
  · exact h _ (by omega)
  · rfl

theorem unfilterRow_filterRow (hb : 1 ≤ bpp) : unfilterRow pred bpp prev (filterRow pred bpp prev row) = row := by
  obtain ⟨hlength, hbyte⟩ := unfilterRow_spec pred bpp prev hb (filterRow pred bpp prev row)
  rw [filterRow_length] at hlength hbyte
  refine row_ext hlength fun x => ?_
  induction x using Nat.strongRecOn with
  | ind x ih =>
    intro hx
    have hleft := leftByte_congr hb fun y hy => ih y hy (Nat.lt_trans hy hx)
    rw [hbyte x hx, filterRow_getD hx, hleft, BitVec.sub_add_cancel]

end

/-- Settles O44. Of the predictors only that they look at earlier bytes matters. -/
theorem filteringUndoesReconstruction : Obligations.FilteringUndoesReconstruction :=
  fun _ _ _ _ _ _ hb => ⟨filterRow_unfilterRow hb, unfilterRow_filterRow hb⟩

/-! The rows of an image. -/

section
variable {s : State}

/-- The samples of a pixel, by colour type (R274). -/
theorem pngSamples_of_mem {p : Png} {ch : Nat}
    (h : (p.colorType.toNat, ch) ∈ [(0, 1), (2, 3), (3, 1), (4, 2), (6, 4)]) : pngSamples p = ch := by
  have hcolor (v : Byte) : p.colorType = v ↔ p.colorType.toNat = v.toNat := BitVec.toNat_inj.symm
  simp only [List.mem_cons, Prod.mk.injEq, List.not_mem_nil, or_false] at h
  obtain ⟨hct, rfl⟩ | ⟨hct, rfl⟩ | ⟨hct, rfl⟩ | ⟨hct, rfl⟩ | ⟨hct, rfl⟩ := h <;> simp [pngSamples, hcolor, hct]

theorem pngBpp_eq (p : Png) : pngBpp p = if pngBits p < 8 then 1 else pngBits p / 8 := by
  unfold pngBpp
  split <;> omega

theorem pngBpp_pos (p : Png) : 1 ≤ pngBpp p := Nat.le_max_left _ _

/-- The filters share one meaning, by their predictor (R275). -/
theorem exec_filterRows {i : Instr} {pred : Byte → Byte → Byte → Byte} (h : (i, pred) ∈ filterRows) (s : State) :
    exec i s = reconstructRow pred s := by
  simp only [filterRows, List.mem_cons, Prod.mk.injEq, List.not_mem_nil, or_false] at h
  obtain ⟨rfl, rfl⟩ | ⟨rfl, rfl⟩ | ⟨rfl, rfl⟩ | ⟨rfl, rfl⟩ | ⟨rfl, rfl⟩ := h <;> rfl

theorem rawRow_length (h : s.png.row * (1 + pngRowBytes s.png) + 1 + pngRowBytes s.png ≤ s.raw.length) :
    (rawRow s).length = pngRowBytes s.png := by
  rw [rawRow, List.length_take, List.length_drop, pngRowStart]
  omega

theorem rawRow_getD {x : Nat} (hx : x < pngRowBytes s.png) :
    (rawRow s).getD x 0#8 = s.raw.getD (s.png.row * (1 + pngRowBytes s.png) + 1 + x) 0#8 := by
  rw [rawRow, List.getD_eq_getElem?_getD, List.getElem?_take_of_lt hx, List.getElem?_drop, pngRowStart,
    List.getD_eq_getElem?_getD]

end

/-- Settles O43. All filters are the one reconstruction with their predictor; the row is built from the left, so each byte
is the filtered one plus the prediction from the finished row. -/
theorem pngFiltersReconstructARow : Obligations.PngFiltersReconstructARow := by
  refine ⟨fun p ch hch => ?_, fun i pred hi s => ?_⟩
  · have hbits : pngBits p = ch * p.bitDepth.toNat := by rw [pngBits, pngSamples_of_mem hch]
    have hrow : pngRowBytes p = (p.width.toNat * (ch * p.bitDepth.toNat) + 7) / 8 := by rw [pngRowBytes, hbits]
    exact ⟨hrow, by rw [pngBpp_eq, hbits], by rw [pngNeed, hrow]⟩
  · intro n bpp start hraw
    obtain ⟨hlength, hbyte⟩ := unfilterRow_spec pred bpp s.png.prev (pngBpp_pos s.png) (rawRow s)
    rw [rawRow_length hraw] at hlength hbyte
    refine ⟨_, exec_filterRows hi s, hlength, fun x hx => ?_⟩
    rw [← rawRow_getD hx]
    exact hbyte x hx

end Sys2Proof.Machine

/-! SUPPORT. PNG pixels: the samples of a row and the conversion by colour type (44_png.md R283 to R287). -/

namespace Sys2Proof.Machine

/-! The samples of a row. -/

section
variable {d : Nat}

theorem rowSample_lt (d : Nat) (row : List Byte) (i : Nat) : rowSample d row i < 2 ^ d := Nat.mod_lt _ (Nat.two_pow_pos d)

/-- At a depth that divides 8 a sample lies in one byte (R283). -/
theorem sampleBit_place (hd : d ∈ [1, 2, 4, 8]) {b : Nat} (hb : b < d) (i : Nat) :
    d - 1 - b + (8 - d - i * d % 8) = 7 - (i * d + b) % 8 ∧ (i * d + b) / 8 = i * d / 8 := by
  simp only [List.mem_cons, List.not_mem_nil, or_false] at hd
  rcases hd with rfl | rfl | rfl | rfl <;> omega

/-- The bits of a sample, the leftmost pixel in the high bits of its byte (R283). -/
theorem rowSample_testBit (hd : d ∈ [1, 2, 4, 8]) (row : List Byte) (i : Nat) {b : Nat} (hb : b < d) :
    (rowSample d row i).testBit (d - 1 - b) = (row.getD ((i * d + b) / 8) 0#8).getLsbD (7 - (i * d + b) % 8) := by
  obtain ⟨hbit, hbyte⟩ := sampleBit_place hd hb i
  have hlow : d - 1 - b < d := by omega
  rw [rowSample, Nat.testBit_mod_two_pow, Nat.testBit_div_two_pow, hbit, hbyte, BitVec.getLsbD, decide_eq_true hlow,
    Bool.true_and]

end

/-! Rows of pixels of one size. -/

section
variable {w k : Nat} {g : Nat → List Byte}

theorem flatMap_range_length (hg : ∀ i, i < w → (g i).length = k) : ((List.range w).flatMap g).length = k * w := by
  induction w with
  | zero => rfl
  | succ w ih =>
    rw [List.range_succ, List.flatMap_append, List.length_append, ih fun i hi => hg i (Nat.lt_succ_of_lt hi),
      List.flatMap_singleton, hg w (Nat.lt_succ_self w), Nat.mul_succ]

/-- Byte `c` of pixel `i`. -/
theorem flatMap_range_getElem? (hg : ∀ i, i < w → (g i).length = k) {i c : Nat} (hi : i < w) (hc : c < k) :
    ((List.range w).flatMap g)[k * i + c]? = (g i)[c]? := by
  induction w with
  | zero => cases hi
  | succ w ih =>
    have hbelow (j : Nat) (hj : j < w) := hg j (Nat.lt_succ_of_lt hj)
    have hlength := flatMap_range_length hbelow
    rw [List.range_succ, List.flatMap_append, List.flatMap_singleton]
    rcases Nat.lt_succ_iff_lt_or_eq.1 hi with hlt | rfl
    · have hinside : k * i + c < k * w := by
        calc k * i + c < k * i + k := Nat.add_lt_add_left hc _
          _ = k * (i + 1) := (Nat.mul_succ k i).symm
          _ ≤ k * w := Nat.mul_le_mul_left k hlt
      rw [List.getElem?_append_left (hlength ▸ hinside), ih hbelow hlt]
    · rw [List.getElem?_append_right (hlength ▸ Nat.le_add_right _ _), hlength, Nat.add_sub_cancel_left]

end

theorem grayRow_spec (p : Png) (row : List Byte) : (grayRow p row).length = 3 * p.width.toNat ∧
    ∀ i c, i < p.width.toNat → c < 3 →
      (grayRow p row)[3 * i + c]? = some (scaleGray p.bitDepth.toNat (rowSample p.bitDepth.toNat row i)) := by
  unfold grayRow
  refine ⟨flatMap_range_length fun _ _ => rfl, fun i c hi hc => (flatMap_range_getElem? ?_ hi hc).trans ?_⟩
  · exact fun _ _ => rfl
  · exact List.getElem?_replicate_of_lt hc

theorem grayAlphaRow_spec (p : Png) (row : List Byte) : (grayAlphaRow p row).length = 4 * p.width.toNat ∧
    ∀ i c, i < p.width.toNat → c < 4 → (grayAlphaRow p row)[4 * i + c]? =
      some (if c < 3 then row.getD (2 * i) 0#8 else row.getD (2 * i + 1) 0#8) := by
  unfold grayAlphaRow
  refine ⟨flatMap_range_length fun _ _ => rfl, fun i c hi hc => (flatMap_range_getElem? ?_ hi hc).trans ?_⟩
  · exact fun _ _ => rfl
  split
  · rename_i h3
    exact (List.getElem?_append_left h3).trans (List.getElem?_replicate_of_lt h3)
  · obtain rfl : c = 3 := by omega
    rfl

/-! Indexed rows (R286). -/

/-- The palette entry of pixel `i`. -/
def pixelEntry (p : Png) (row : List Byte) (i : Nat) : Rgb := p.plte.getD (rowSample p.bitDepth.toNat row i) default

/-- The bytes of an entry, in the order of the output. -/
def Rgb.bytes (e : Rgb) : List Byte := [e.r, e.g, e.b]

/-- The bytes of an indexed row whose indexes are all in the palette. -/
def indexedBytes (p : Png) (row : List Byte) : List Byte :=
  (List.range p.width.toNat).flatMap fun i => (pixelEntry p row i).bytes

section
variable {p : Png} {row : List Byte}

theorem indexedRow_of_lt (h : ∀ i, i < p.width.toNat → rowSample p.bitDepth.toNat row i < p.plte.length) :
    indexedRow p row = some (indexedBytes p row) := by
  refine joinAll_of_mem _ _ _ fun i hi => ?_
  have hentry := List.getElem?_eq_getElem (h i (List.mem_range.1 hi))
  rw [paletteBytes, pixelEntry, List.getD_eq_getElem?_getD, hentry, Option.map_some, Option.getD_some, Rgb.bytes]

theorem indexedRow_of_le (h : ∃ i, i < p.width.toNat ∧ p.plte.length ≤ rowSample p.bitDepth.toNat row i) :
    indexedRow p row = none := by
  obtain ⟨i, hi, hindex⟩ := h
  refine joinAll_missing _ _ ⟨i, List.mem_range.2 hi, ?_⟩
  rw [paletteBytes, List.getElem?_eq_none hindex, Option.map_none]

theorem indexedBytes_getElem? {i c : Nat} (hi : i < p.width.toNat) (hc : c < 3) :
    (indexedBytes p row)[3 * i + c]? = (pixelEntry p row i).bytes[c]? := by
  refine flatMap_range_getElem? ?_ hi hc
  exact fun _ _ => rfl

theorem indexedBytes_spec (p : Png) (row : List Byte) : (indexedBytes p row).length = 3 * p.width.toNat ∧
    ∀ i, i < p.width.toNat → ∀ e, p.plte[rowSample p.bitDepth.toNat row i]? = some e →
      (indexedBytes p row)[3 * i]? = some e.r ∧ (indexedBytes p row)[3 * i + 1]? = some e.g ∧
        (indexedBytes p row)[3 * i + 2]? = some e.b := by
  refine ⟨flatMap_range_length fun _ _ => rfl, fun i hi e he => ?_⟩
  obtain rfl : pixelEntry p row i = e := by rw [pixelEntry, List.getD_eq_getElem?_getD, he, Option.getD_some]
  exact ⟨indexedBytes_getElem? (c := 0) hi (by decide), indexedBytes_getElem? (c := 1) hi (by decide),
    indexedBytes_getElem? (c := 2) hi (by decide)⟩

end

/-! The conversion of all rows, and the record (R260, R287). -/

/-- The state after a conversion that gave the bytes `px` with `ch` channels; `b` is what BR holds (log 30). -/
def State.converted (s : State) (b : Br) (ch : Nat) (px : List Byte) : State :=
  { s.endedZlib b with
    out := px, resWidth := s.png.width, resHeight := s.png.height, resChannels := BitVec.ofNat 8 ch,
    resLen := resLenOf (s.png.width.toNat * s.png.height.toNat * ch) }

/-- All conversions of a state draw the same BR. -/
theorem finishPng_eq (s : State) : ∃ b : Br, b.Inside (inLength s) ∧
    ∀ ch px, finishPng ch px s = .next (s.converted b ch px) :=
  ⟨cutToInput (inLength s) (Config.br s.draws), cutToInput_inside _ _, fun _ _ => rfl⟩

theorem convertRows_map_some (ch : Nat) (f : List Byte → List Byte) (s : State) :
    convertRows ch (fun row => some (f row)) s = finishPng ch (s.png.image.flatMap f) s := by
  rw [convertRows, joinAll_map_some]

/-- Every index of the image is in the palette. -/
theorem convertRows_indexed {s : State} (h : ∀ row ∈ s.png.image, ∀ i, i < s.png.width.toNat →
    rowSample s.png.bitDepth.toNat row i < s.png.plte.length) :
    convertRows 3 (indexedRow s.png) s = finishPng 3 (s.png.image.flatMap (indexedBytes s.png)) s := by
  have hrows := List.map_congr_left fun row hrow => indexedRow_of_lt (h row hrow)
  rw [convertRows, hrows, joinAll_map_some]

theorem fails_convertRows_indexed {s : State} (h : ∃ row ∈ s.png.image, ∃ i, i < s.png.width.toNat ∧
    s.png.plte.length ≤ rowSample s.png.bitDepth.toNat row i) :
    Fails (convertRows 3 (indexedRow s.png) s) s .malformedContainer := by
  obtain ⟨row, hrow, hindex⟩ := h
  rw [convertRows, joinAll_missing _ _ ⟨row, hrow, indexedRow_of_le hindex⟩]
  exact fails_raise_self _ s

/-- Settles O46. Each colour type converts row by row and ends the call with the same record; only an index can fail. -/
theorem pngPixelsAreConverted : Obligations.PngPixelsAreConverted := by
  refine ⟨fun d hd row i => ⟨rowSample_lt d row i, fun b hb => rowSample_testBit hd row i hb⟩, fun s hp => ?_⟩
  obtain ⟨b, hb, hfinish⟩ := finishPng_eq s
  have hconvert (ch : Nat) (f : List Byte → List Byte) := (convertRows_map_some ch f s).trans (hfinish ch _)
  have hcopy (ch : Nat) : convertRows ch some s = .next (s.converted b ch s.png.image.flatten) := by
    have hid := hconvert ch id
    rwa [List.flatMap_id] at hid
  refine ⟨b, hb, (if_pos hp).trans (hcopy 3), (if_pos hp).trans (hcopy 4), ?_, ?_, fun hindex => ?_, fun hindex => ?_⟩
  · exact ⟨grayRow s.png, (if_pos hp).trans (hconvert 3 _), grayRow_spec s.png⟩
  · exact ⟨grayAlphaRow s.png, (if_pos hp).trans (hconvert 4 _), grayAlphaRow_spec s.png⟩
  · exact ⟨indexedBytes s.png, (if_pos hp).trans ((convertRows_indexed hindex).trans (hfinish 3 _)),
      fun row _ => indexedBytes_spec s.png row⟩
  · rw [exec, execCtIndexed, if_pos hp]
    exact fails_convertRows_indexed hindex

end Sys2Proof.Machine

/-! SUPPORT. Every step keeps the header checks of PNG (44_png.md R265 to R271). First what a state has to show, by where it
fetches next; then the elements by unit, the fetch and the host. -/

namespace Sys2Proof.Machine

variable {s u t : State}

/-- If the call is a `PNG_DECODE`, a header that was seen is accepted. -/
def State.HeaderSound (u : State) : Prop := u.running = some .png → u.png.seenIhdr = true → u.png.Accepted

/-- If the call is a `PNG_DECODE`, its header was seen and is accepted: what INF and ZLB work under. -/
def State.HeaderReady (u : State) : Prop := u.running = some .png → u.png.seenIhdr = true ∧ u.png.Accepted

/-! What the next control point asks for. -/

/-- Outside the control points of PNG only a `PNG_DECODE` owes anything. -/
theorem headerOk_outside (hp : t.point.inPng = false) (hsound : t.HeaderSound)
    (hseen : t.point = .zlibHdr ∨ t.point.inflating = true → t.running = some .png → t.png.seenIhdr = true) :
    t.HeaderOk := by
  intro hcall
  have hpng : t.running = some .png := hcall.resolve_right (Bool.eq_false_iff.1 hp)
  have hne {p : Point} (hin : p.inPng = true) : t.point ≠ p := fun h => by cases hp.symm.trans (h ▸ hin)
  refine ⟨hsound hpng, fun h => absurd h (hne rfl), fun h => absurd h (hne rfl), fun h => ?_⟩
  obtain h | h | h | h := h
  · exact hseen (.inl h) hpng
  · exact hseen (.inr h) hpng
  · exact absurd h (hne rfl)
  · exact absurd h (hne rfl)

/-- A call of another unit, or none. -/
theorem headerOk_otherCall (hr : t.running ≠ some .png) (hp : t.point.inPng = false) : t.HeaderOk :=
  headerOk_outside hp (fun h => absurd h hr) fun _ h => absurd h hr

theorem headerOk_atRest (hp : t.point = .idle) (hr : t.running = none) : t.HeaderOk :=
  headerOk_otherCall (hr ▸ nofun) (hp ▸ rfl)

theorem headerOk_failCall (k : FailKind) (u : State) : (failCall k u).HeaderOk := headerOk_atRest rfl rfl

/-- INF or ZLB goes on. -/
theorem headerOk_of_ready (h : t.HeaderReady) (hp : t.point.inPng = false) : t.HeaderOk :=
  headerOk_outside hp (fun hr _ => (h hr).2) fun _ hr => (h hr).1

theorem inJpeg_outside {p : Point} (h : p.inJpeg = true) : p.inPng = false ∧ p.inflating = false ∧ p ≠ .zlibHdr := by
  revert h
  cases p <;> decide

/-- JDEC or JCOEF goes on. -/
theorem headerOk_inJpeg (h : t.HeaderSound) (hp : t.point.inJpeg = true) : t.HeaderOk := by
  obtain ⟨hpng, hinflating, hzlib⟩ := inJpeg_outside hp
  refine headerOk_outside hpng h fun hin => ?_
  exact hin.elim (absurd · hzlib) fun hin => by cases hinflating.symm.trans hin

/-- The scan of the chunks goes on. -/
theorem headerOk_chunks (h : t.png.seenIhdr = true → t.png.Accepted) (hp : t.point = .pngChunk) : t.HeaderOk := by
  refine fun _ => ⟨h, ?_, ?_, ?_⟩ <;> rw [hp] <;> simp [Point.inflating]

/-- No header has been seen, and none is owed yet. -/
theorem headerOk_unseen (h : t.png.seenIhdr = false)
    (hp : t.point = .pngSignature ∨ t.point = .pngIhdr ∨
      (t.point = .pngCheck ∧ t.png.width ≠ 0#32 ∧ t.png.height ≠ 0#32)) : t.HeaderOk := by
  refine fun _ => ⟨fun hseen => absurd (h.symm.trans hseen) nofun, fun _ => h, fun hcheck => ⟨h, ?_⟩, fun hlater => ?_⟩
  · obtain hp | hp | ⟨-, hsize⟩ := hp
    · cases hp.symm.trans hcheck
    · cases hp.symm.trans hcheck
    · exact hsize
  · rcases hp with hp | hp | ⟨hp, -⟩ <;> rw [hp] at hlater <;> simp [Point.inflating] at hlater

/-- The rows and the conversion come after an accepted header. -/
theorem headerOk_rows (h : t.png.seenIhdr = true ∧ t.png.Accepted) (hp : t.point = .pngRow ∨ t.point = .pngConvert) :
    t.HeaderOk := by
  refine fun _ => ⟨fun _ => h.2, fun hihdr => ?_, fun hcheck => ?_, fun _ => h.1⟩
  · rcases hp with hp | hp <;> cases hp.symm.trans hihdr
  · rcases hp with hp | hp <;> cases hp.symm.trans hcheck

/-! An operation that can fail, and what follows it: a failure owes nothing. -/

theorem headerOk_run {α : Type} {x : Res α} {f : α → State → Out}
    (hf : ∀ a v, x = .ok a v → Answers State.HeaderOk (f a v)) : Answers State.HeaderOk (x.run f) := by
  cases x with
  | ok a v => exact hf a v rfl
  | fail k v => exact headerOk_failCall k v

theorem headerOk_unlessFail {checks : List (Bool × FailKind)} {k : Out} (h : Answers State.HeaderOk k) :
    Answers State.HeaderOk (unlessFail checks u k) := by
  refine answers_of_next fun t ho => ?_
  obtain ⟨-, ht⟩ | ⟨kind, -, rfl⟩ := unlessFail_next ho
  · exact h.of_next ht
  · exact headerOk_failCall kind u

/-! INF and ZLB (42_inflate.md, 43_zlib.md): the call and the registers of PNG stay. -/

theorem headerOk_finishBlock (h : u.HeaderReady) : Answers State.HeaderOk (finishBlock u) := by
  refine answers_of_next fun t ho => ?_
  -- a block header follows; or INF ends; or ZLB ends or fails; or PNG fails one of two ways or goes on to its rows
  obtain ⟨-, rfl⟩ | ⟨-, ⟨-, rfl⟩ | ⟨-, rfl | rfl⟩ | ⟨hr, rfl | rfl | rfl⟩⟩ := finishBlock_next ho
  · exact headerOk_of_ready h rfl
  · exact headerOk_atRest rfl rfl
  · exact headerOk_atRest rfl rfl
  · exact headerOk_failCall _ _
  · exact headerOk_failCall _ _
  · exact headerOk_failCall _ _
  · exact headerOk_rows (h hr) (.inl rfl)

theorem headerOk_execStoredLenNlen (len nlen : Half) (h : u.HeaderReady) :
    Answers State.HeaderOk (execStoredLenNlen len nlen u) := by
  refine answers_ite (headerOk_run fun bytes v hread => ?_) (headerOk_failCall _ _)
  obtain ⟨b, rfl⟩ := readBytes_frame hread
  obtain ⟨o, w, i, hemit, -⟩ := emitAll_frame bytes
    { u with inf := { u.inf with storedLen := len, storedNlen := nlen }, br := b }
  rw [hemit]
  exact headerOk_finishBlock h

theorem headerOk_execDynCounts (hlit hdist : BitVec 5) (hclen : BitVec 4) (h : u.HeaderReady) :
    Answers State.HeaderOk (execDynCounts hlit hdist hclen u) := by
  refine headerOk_run fun fields v hread => ?_
  obtain ⟨b, rfl⟩ := readClenFields_frame hread
  exact answers_ite (headerOk_of_ready h rfl) trivial

theorem headerOk_lengthsDone (h : u.HeaderReady) : Answers State.HeaderOk (lengthsDone u) :=
  answers_ite (headerOk_of_ready h rfl) (answers_ite (headerOk_of_ready h rfl) trivial)

/-- A run of code lengths, its number of repeats read first (R205). -/
theorem headerOk_lengthRun (n a m : Nat) (h : u.HeaderReady) :
    Answers State.HeaderOk ((readBits n u).run fun e v => appendLengths a (m + e) v) := by
  refine headerOk_run fun e v hread => ?_
  obtain ⟨b, rfl⟩ := readBits_frame hread
  exact answers_ite (headerOk_failCall _ _) (headerOk_lengthsDone h)

theorem headerOk_execClRep (h : u.HeaderReady) : Answers State.HeaderOk (execClRep u) := by
  unfold execClRep
  split
  · exact headerOk_failCall _ _
  · exact headerOk_lengthRun 2 _ 3 h

theorem headerOk_lengthCode {i : Instr} (hi : i ∈ lengthInstrs) (h : u.HeaderReady) :
    Answers State.HeaderOk (exec i u) := by
  obtain ⟨k, hk⟩ := List.getElem?_of_mem hi
  rw [exec_lengthInstrs hk]
  refine headerOk_run fun e v hread => ?_
  obtain ⟨b, rfl⟩ := extraBits_frame hread
  exact headerOk_of_ready h rfl

theorem headerOk_distanceCode {i : Instr} (hi : i ∈ distInstrs) (h : u.HeaderReady) :
    Answers State.HeaderOk (exec i u) := by
  obtain ⟨k, hk⟩ := List.getElem?_of_mem hi
  rw [exec_distInstrs hk]
  refine headerOk_run fun e v hread => answers_ite (headerOk_failCall _ _) ?_
  obtain ⟨b, rfl⟩ := extraBits_frame hread
  obtain ⟨o, w, i, hcopy, -⟩ := copyBack_frame (distBase.getD k 0 + e) u.inf.matchLen { u with br := b }
  rw [hcopy]
  exact headerOk_of_ready h rfl

theorem headerOk_blockStored (b : Bool) (h : u.HeaderReady) : Answers State.HeaderOk (exec (.blockStored b) u) := by
  rw [exec, execBlockStored, alignToByte_eq]
  exact headerOk_of_ready h rfl

theorem headerOk_beginZlib (h : u.HeaderReady) : Answers State.HeaderOk (beginZlib u) :=
  answers_ite (headerOk_failCall _ _) (headerOk_of_ready h rfl)

theorem headerOk_execZlibHdr (cmf flg : Byte) (h : u.HeaderReady) : Answers State.HeaderOk (execZlibHdr cmf flg u) := by
  unfold execZlibHdr
  dsimp only
  split
  · exact headerOk_failCall _ _
  · exact headerOk_of_ready h rfl

/-! JDEC and JCOEF (48_jpeg_decoder.md, 45_jpeg_entropy.md): the same. -/

theorem headerOk_segment {f : List Byte → State → Out} (h : u.HeaderSound)
    (hf : ∀ payload v, v.HeaderSound → Answers State.HeaderOk (f payload v)) :
    Answers State.HeaderOk ((segment u).run f) := by
  refine headerOk_run fun payload v hsegment => hf payload v ?_
  obtain ⟨-, -, -, -, rfl⟩ := segment_ok hsegment
  exact h

theorem headerOk_blockDone (h : u.HeaderSound) : Answers State.HeaderOk (blockDone u) := by
  unfold blockDone
  split
  · exact headerOk_atRest rfl rfl
  · refine headerOk_run fun _ v hdequantize => ?_
    obtain ⟨-, rfl⟩ := dequantize_ok hdequantize
    generalize (List.range 64).map (dequantValue u (frameComp u.jdec u.jc.c).tq) = dq
    obtain ⟨jd, jc, co, j, p, hnext, hp, -⟩ := nextBlock_frame (placeBlock (transform { u with dq := dq }))
    rw [hnext]
    refine headerOk_inJpeg h ?_
    rcases hp with rfl | rfl | rfl <;> rfl
  · trivial

theorem headerOk_acLoop (h : u.HeaderSound) : Answers State.HeaderOk (acLoop u) :=
  answers_ite (headerOk_inJpeg h rfl) (headerOk_blockDone h)

theorem headerOk_execDcCat (c : BitVec 4) (h : u.HeaderSound) : Answers State.HeaderOk (execDcCat c u) := by
  refine headerOk_run fun _ v hreceive => ?_
  obtain ⟨j, rfl⟩ := receive_ok hreceive
  exact headerOk_acLoop h

theorem headerOk_execAcRunsize (rs : Byte) (h : u.HeaderSound) : Answers State.HeaderOk (execAcRunsize rs u) := by
  refine answers_ite (headerOk_failCall _ _) (headerOk_run fun _ v hreceive => ?_)
  obtain ⟨j, rfl⟩ := receive_ok hreceive
  exact headerOk_acLoop h

theorem headerOk_execMSof0 (h : u.HeaderSound) : Answers State.HeaderOk (execMSof0 u) :=
  headerOk_segment h fun _ _ hv =>
    headerOk_unlessFail <| headerOk_unlessFail <| headerOk_unlessFail <| headerOk_inJpeg hv rfl

theorem headerOk_execMDqt (h : u.HeaderSound) : Answers State.HeaderOk (execMDqt u) := by
  refine headerOk_segment h fun payload v hv => headerOk_run fun _ w hload => ?_
  obtain ⟨qt, qtPrec, qtDef, rfl⟩ := loadQuantTables_frame hload
  exact headerOk_inJpeg hv rfl

theorem headerOk_execMDht (h : u.HeaderSound) : Answers State.HeaderOk (execMDht u) := by
  refine headerOk_segment h fun payload v hv => answers_of_next fun t ho => ?_
  obtain ⟨jdc, jac, jhuf, draws, rfl | ⟨k, rfl⟩⟩ := loadHuffTables_next ho
  · exact headerOk_inJpeg hv rfl
  · exact headerOk_failCall k _

theorem headerOk_execMSos (h : u.HeaderSound) : Answers State.HeaderOk (execMSos u) := by
  refine headerOk_segment h fun payload v hv => headerOk_unlessFail <| headerOk_unlessFail ?_
  rw [beginScan_eq]
  exact headerOk_inJpeg hv rfl

/-! PNG (44_png.md). -/

theorem headerOk_execChunkIhdr (u : State) : Answers State.HeaderOk (execChunkIhdr u) := by
  unfold execChunkIhdr
  split
  · exact headerOk_failCall _ _
  · rename_i hseen
    exact answers_ite (headerOk_failCall _ _) (headerOk_unseen (Bool.eq_false_iff.2 hseen) (.inr (.inl rfl)))

theorem headerOk_execChunkIend (h : u.png.seenIhdr = true → u.png.Accepted) :
    Answers State.HeaderOk (execChunkIend u) := by
  unfold execChunkIend
  split
  · exact headerOk_failCall _ _
  · rename_i hseen
    have hseen : u.png.seenIhdr = true := by simpa using hseen
    exact headerOk_beginZlib fun _ => ⟨hseen, h hseen⟩

theorem headerOk_execIhdrPayload (width height : Word) (depth color compression filter interlace : Byte)
    (h : u.png.seenIhdr = false) :
    Answers State.HeaderOk (execIhdrPayload width height depth color compression filter interlace u) := by
  unfold execIhdrPayload
  dsimp only
  split
  · exact headerOk_failCall _ _
  · rename_i hsize
    exact headerOk_unseen h (.inr (.inr ⟨rfl, not_or.1 hsize⟩))

theorem headerOk_convertRows (ch : Nat) (f : List Byte → Option (List Byte)) (u : State) :
    Answers State.HeaderOk (convertRows ch f u) := by
  unfold convertRows
  split
  · exact headerOk_atRest rfl rfl
  · exact headerOk_failCall _ _

/-- A supported header is an accepted one (R265 to R268). -/
theorem accepted_of_supported {p : Png} {i : Instr} {ct : Nat} {depths : List Nat} (hrow : (i, ct, depths) ∈ colorRows)
    (hcolor : p.colorType.toNat = ct) (hw : p.width ≠ 0#32) (hh : p.height ≠ 0#32) (h : p.Supported depths) :
    p.Accepted := by
  obtain ⟨hdepth, hinterlace, hcompression, hfilter⟩ := h
  refine ⟨hw, hh, hinterlace, hcompression, hfilter, ?_⟩
  have hbyte (x v : Byte) : x = v ↔ x.toNat = v.toNat := BitVec.toNat_inj.symm
  simp only [colorRows, List.mem_cons, Prod.mk.injEq, List.not_mem_nil, or_false] at hrow
  obtain ⟨-, rfl, rfl⟩ | ⟨-, rfl, rfl⟩ | ⟨-, rfl, rfl⟩ | ⟨-, rfl, rfl⟩ | ⟨-, rfl, rfl⟩ := hrow <;>
    simp [hbyte, hcolor] at hdepth ⊢ <;> exact hdepth

/-- A colour type at the header check or at the conversion. -/
theorem headerOk_color {i : Instr} (hi : i ∈ colorRows.map (·.1)) (h : u.HeaderOk)
    (hp : u.point = .pngCheck ∨ u.point = .pngConvert) (hcolor : encode i = u.png.colorType.toNat) :
    Answers State.HeaderOk (exec i u) := by
  obtain ⟨⟨i, ct, depths⟩, hrow, rfl⟩ := List.mem_map.1 hi
  rcases hp with hp | hp
  · have hct : encode i = ct := (decodedInstructionsAreWellFormed _ _ _ (decode_colorRows hrow)).2.2
    obtain ⟨hnext, hraise⟩ := exec_color hrow fun hconvert => nomatch hp.symm.trans hconvert
    obtain ⟨-, -, hcheck, -⟩ := h (.inr (hp ▸ rfl))
    obtain ⟨-, hw, hh⟩ := hcheck hp
    by_cases hsupported : u.png.Supported depths
    · rw [hnext hsupported]
      exact headerOk_chunks (fun _ => accepted_of_supported hrow (hcolor.symm.trans hct) hw hh hsupported) rfl
    · rw [hraise hsupported]
      exact headerOk_failCall _ _
  · simp only [colorRows, List.mem_cons, Prod.mk.injEq, List.not_mem_nil, or_false] at hrow
    obtain ⟨rfl, -⟩ | ⟨rfl, -⟩ | ⟨rfl, -⟩ | ⟨rfl, -⟩ | ⟨rfl, -⟩ := hrow <;>
      exact Eq.subst (motive := Answers State.HeaderOk) (if_pos hp).symm (headerOk_convertRows _ _ u)

theorem headerOk_reconstructRow (pred : Byte → Byte → Byte → Byte) (h : u.HeaderOk) (hp : u.point = .pngRow) :
    Answers State.HeaderOk (reconstructRow pred u) := by
  obtain ⟨hsound, -, -, hseen⟩ := h (.inr (hp ▸ rfl))
  have hrow := hseen (.inr (.inr (.inl hp)))
  refine headerOk_rows ⟨hrow, hsound hrow⟩ ?_
  show (if _ then Point.pngRow else .pngConvert) = _ ∨ (if _ then Point.pngRow else .pngConvert) = _
  split
  · exact .inl rfl
  · exact .inr rfl

/-! The dispatch: each element where its format is fetched. -/

/-- The control points at which the elements of a format are fetched (R21). -/
def fetchedAt : Format → Point → Prop
  | .cmd, p => p = .idle
  | .zlib, p => p = .zlibHdr
  | .pngFile, p => p = .pngSignature
  | .pngChunk, p => p = .pngChunk
  | .pngIhdr, p => p = .pngIhdr
  | .pngColor, p => p = .pngCheck ∨ p = .pngConvert
  | .pngFilter, p => p = .pngRow
  | .jpegMarker, p => p.inJpeg = true
  | .jpegDc, p => p.inJpeg = true
  | .jpegAc, p => p.inJpeg = true
  | _, p => p.inflating = true

theorem State.HeaderOk.sound (h : u.HeaderOk) : u.HeaderSound := fun hr => (h (.inl hr)).1

theorem State.HeaderOk.soundInPng (h : u.HeaderOk) (hp : u.point.inPng = true) :
    u.png.seenIhdr = true → u.png.Accepted :=
  (h (.inr hp)).1

theorem State.HeaderOk.ready (h : u.HeaderOk) (hp : u.point = .zlibHdr ∨ u.point.inflating = true) :
    u.HeaderReady := by
  intro hr
  obtain ⟨hsound, -, -, hlater⟩ := h (.inl hr)
  have hseen := hlater (hp.imp_right .inl)
  exact ⟨hseen, hsound hseen⟩

/-- A `PNG_DECODE` begins with no header seen (R40, R260). -/
theorem headerOk_execPngDecode (u : State) : Answers State.HeaderOk (execPngDecode u) :=
  answers_whenIdle (headerOk_unseen rfl (.inl rfl))

theorem headerOk_execHufDecode (u : State) : Answers State.HeaderOk (execHufDecode u) := by
  refine answers_whenIdle <| answers_whenBrLive ?_
  split
  · trivial
  · exact answers_ite (headerOk_run fun _ _ _ => headerOk_atRest rfl rfl) trivial

theorem headerOk_execJhufBuild (u : State) : Answers State.HeaderOk (execJhufBuild u) := by
  unfold execJhufBuild
  generalize inputCounts u = counts
  generalize inputSymbols u = syms
  exact answers_whenIdle <| answers_ite trivial <| answers_ite (headerOk_atRest rfl rfl) trivial

/-- A command begins its call anew, in any state. -/
theorem headerOk_command {i : Instr} (hi : formatOf i = .cmd) (u : State) : Answers State.HeaderOk (exec i u) := by
  cases i with
  | brReset | hufBuildFixed | jidctBlock | jccPixel | jccGray => exact answers_whenIdle (headerOk_atRest rfl rfl)
  | brAlign => exact answers_whenIdle <| answers_whenBrLive (headerOk_atRest rfl rfl)
  | brReadbits | brReadbitsRev =>
    exact answers_whenIdle <| answers_whenBrLive <| answers_whenBitCount <|
      headerOk_run fun _ _ _ => headerOk_atRest rfl rfl
  | brReadbit | brReadbytes =>
    exact answers_whenIdle <| answers_whenBrLive <| headerOk_run fun _ _ _ => headerOk_atRest rfl rfl
  | hufBuild => exact answers_whenIdle <| answers_ite trivial <| answers_ite (headerOk_atRest rfl rfl) trivial
  | hufDecode => exact headerOk_execHufDecode u
  | infDecompress | jpegDecode => exact answers_whenIdle (headerOk_otherCall nofun rfl)
  | zlbDecompress => exact answers_whenIdle (headerOk_beginZlib nofun)
  | pngDecode => exact headerOk_execPngDecode u
  | jhufBuild => exact headerOk_execJhufBuild u
  | jcReset => exact answers_whenIdle <| answers_ite trivial (headerOk_atRest rfl rfl)
  | jcBlock =>
    exact answers_whenIdle <| answers_ite trivial <| answers_ite trivial <| answers_ite trivial <|
      headerOk_otherCall nofun rfl
  | jdqLoad | jdqBlock =>
    exact answers_whenIdle <| answers_ite trivial <| headerOk_run fun _ _ _ => headerOk_atRest rfl rfl
  | _ => cases hi -- an element of a stream

/-- Each element where it is fetched; a colour type is the one latched. -/
theorem headerOk_element {i : Instr} (h : u.HeaderOk) (hat : fetchedAt (formatOf i) u.point)
    (hcolor : formatOf i = .pngColor → encode i = u.png.colorType.toNat) : Answers State.HeaderOk (exec i u) := by
  cases i with
  | blockStored b => exact headerOk_blockStored b (h.ready (.inr hat))
  | blockFixed | blockDynamic | fixll0to143 | fixll144to255 | fixll256to279 | fixll280to287 | fixd0to31 | lit =>
    exact headerOk_of_ready (h.ready (.inr hat)) rfl
  | storedLenNlen len nlen => exact headerOk_execStoredLenNlen len nlen (h.ready (.inr hat))
  | dynCounts hlit hdist hclen => exact headerOk_execDynCounts hlit hdist hclen (h.ready (.inr hat))
  | clLen => exact headerOk_lengthsDone (h.ready (.inr hat))
  | clRep => exact headerOk_execClRep (h.ready (.inr hat))
  | clZero3 => exact headerOk_lengthRun 3 0 3 (h.ready (.inr hat))
  | clZero11 => exact headerOk_lengthRun 7 0 11 (h.ready (.inr hat))
  | eob => exact headerOk_finishBlock (h.ready (.inr hat))
  | len257 | len258 | len259 | len260 | len261 | len262 | len263 | len264 | len265 | len266 | len267 | len268 |
    len269 | len270 | len271 | len272 | len273 | len274 | len275 | len276 | len277 | len278 | len279 | len280 |
    len281 | len282 | len283 | len284 | len285 => exact headerOk_lengthCode (by decide) (h.ready (.inr hat))
  | dist0 | dist1 | dist2 | dist3 | dist4 | dist5 | dist6 | dist7 | dist8 | dist9 | dist10 | dist11 | dist12 |
    dist13 | dist14 | dist15 | dist16 | dist17 | dist18 | dist19 | dist20 | dist21 | dist22 | dist23 | dist24 |
    dist25 | dist26 | dist27 | dist28 | dist29 => exact headerOk_distanceCode (by decide) (h.ready (.inr hat))
  | zlibHdr cmf flg => exact headerOk_execZlibHdr cmf flg (h.ready (.inl hat))
  | pngSignature => exact headerOk_chunks (h.soundInPng (hat ▸ rfl)) rfl
  | chunkIhdr => exact headerOk_execChunkIhdr u
  | chunkPlte =>
    exact answers_ite (headerOk_failCall _ _) <| answers_ite (headerOk_failCall _ _) <|
      headerOk_chunks (h.soundInPng (hat ▸ rfl)) rfl
  | chunkIdat => exact answers_ite (headerOk_failCall _ _) (headerOk_chunks (h.soundInPng (hat ▸ rfl)) rfl)
  | chunkOther => exact headerOk_chunks (h.soundInPng (hat ▸ rfl)) rfl
  | chunkIend => exact headerOk_execChunkIend (h.soundInPng (hat ▸ rfl))
  | ihdrPayload width height depth color compression filter interlace =>
    obtain ⟨-, hunseen, -, -⟩ := h (.inr (hat ▸ rfl))
    exact headerOk_execIhdrPayload width height depth color compression filter interlace (hunseen hat)
  | ctGray | ctTruecolor | ctIndexed | ctGrayAlpha | ctTruecolorAlpha =>
    exact headerOk_color (by decide) h hat (hcolor rfl)
  | filterNone | filterSub | filterUp | filterAverage | filterPaeth => exact headerOk_reconstructRow _ h hat
  | blockReserved | lenInvalid | distInvalid | ctInvalid | filterInvalid | mSof1 | mSof2 | mSof3 | mSof5 | mSof6 |
    mSof7 | mSof9 | mSof10 | mSof11 | mSof13 | mSof14 | mSof15 | dcInvalid => exact headerOk_failCall _ _
  | mSoi => exact answers_ite (headerOk_failCall _ _) (headerOk_inJpeg h.sound rfl)
  | mEoi => exact answers_ite (headerOk_failCall _ _) (headerOk_atRest rfl rfl)
  | mSof0 => exact headerOk_execMSof0 h.sound
  | mDht => exact headerOk_execMDht h.sound
  | mDqt => exact headerOk_execMDqt h.sound
  | mDri => exact headerOk_segment h.sound fun _ _ hv => headerOk_unlessFail <| headerOk_inJpeg hv rfl
  | mSos => exact headerOk_execMSos h.sound
  | mRst => exact answers_ite (headerOk_inJpeg h.sound rfl) (headerOk_failCall _ _)
  | mOther => exact headerOk_segment h.sound fun _ _ hv => headerOk_inJpeg hv rfl
  | dcCat c => exact headerOk_execDcCat c h.sound
  | acEob => exact headerOk_blockDone h.sound
  | acZrl => exact headerOk_acLoop h.sound
  | acRunsize rs => exact headerOk_execAcRunsize rs h.sound
  | _ => exact headerOk_command rfl u

/-! The fetch. -/

/-- What a fetch in state `s` leaves: an element of a format that is fetched there, at the same control point; a colour type
is the one latched. -/
def Fetched.Fits (s : State) : Fetched → Prop
  | .element f w u => fetchedAt f s.point ∧ u.point = s.point ∧ (s.HeaderOk → u.HeaderOk) ∧
      (f = .pngColor → w = u.png.colorType.toNat)
  | .fail _ _ => True
  | .refuse _ => True

/-- A read moves a cursor only. -/
theorem Res.Leaves.fits {f : Format} {x : Res Nat} (hx : x.Leaves s.Reads) (hf : fetchedAt f s.point)
    (hcolor : f ≠ .pngColor) : (Fetched.ofRes f x).Fits s := by
  cases x with
  | ok w u =>
    obtain ⟨b, j, rfl, -⟩ := hx
    exact ⟨hf, rfl, id, fun h => absurd h hcolor⟩
  | fail k u => trivial

theorem fetchSymbol_fits {f : Format} (tree : Tree) (hf : fetchedAt f s.point) (hcolor : f ≠ .pngColor) :
    (fetchSymbol f tree s).Fits s := by
  unfold fetchSymbol
  split
  · exact (decodeSymbol_reads tree s).fits hf hcolor
  · trivial

theorem fetchJpegSymbol_fits {f : Format} (tree : Tree) (hf : fetchedAt f s.point) (hcolor : f ≠ .pngColor) :
    (fetchJpegSymbol f tree s).Fits s := by
  unfold fetchJpegSymbol
  split
  · exact (jdecode_reads tree s).fits hf hcolor
  · trivial

/-- A test of the fetch that fails the call. -/
theorem fits_unless {c : Prop} [Decidable c] {k : FailKind} {x : Fetched} (hx : x.Fits s) :
    (if c then .fail k u else x).Fits s := by
  split
  · trivial
  · exact hx

theorem fetch_fits (s : State) : (fetch s).Fits s := by
  cases hp : s.point with
  | idle | litlenSym | distSym | zlibHdr | pngIhdr | pngRow =>
    simp only [fetch, hp]
    exact ⟨by rw [hp]; rfl, rfl, id, nofun⟩
  | pngCheck =>
    simp only [fetch, hp]
    exact ⟨.inl hp, rfl, id, fun _ => rfl⟩
  | pngConvert =>
    simp only [fetch, hp]
    exact ⟨.inr hp, rfl, id, fun _ => rfl⟩
  | blockHdr | stored | dynHdr =>
    simp only [fetch, hp]
    exact (readBits_reads _ s).fits (by rw [hp]; rfl) nofun
  | clen =>
    simp only [fetch, hp]
    exact fetchSymbol_fits _ (by rw [hp]; rfl) nofun
  | litlenCode =>
    by_cases hb : s.inf.btype = 1#2
    · rw [fetch_fixedLitlen hp hb]
      exact (readBitsReversed_reads _ s).fits (by rw [hp]; rfl) nofun
    · simp only [fetch, hp, hb, if_false]
      exact fetchSymbol_fits _ (by rw [hp]; rfl) nofun
  | distCode =>
    by_cases hb : s.inf.btype = 1#2
    · rw [fetch_fixedDist hp hb]
      exact (readBitsReversed_reads _ s).fits (by rw [hp]; rfl) nofun
    · simp only [fetch, hp, hb, if_false]
      exact fetchSymbol_fits _ (by rw [hp]; rfl) nofun
  | jpegDc | jpegAc =>
    simp only [fetch, hp]
    exact fetchJpegSymbol_fits _ (by rw [hp]; rfl) nofun
  | pngSignature =>
    rw [fetch_pngSignature hp]
    exact fits_unless <| fits_unless ⟨hp, rfl, id, nofun⟩
  | pngChunk =>
    rw [fetch_pngChunk hp]
    exact fits_unless <| fits_unless <| fits_unless ⟨hp, rfl, id, nofun⟩
  | jpegSoi =>
    rw [fetch_jpegSoi hp]
    exact fits_unless <| fits_unless ⟨by rw [hp]; rfl, rfl, id, nofun⟩
  | jpegMarker =>
    rw [fetch_jpegMarker hp]
    exact fits_unless <| fits_unless ⟨by rw [hp]; rfl, rfl, id, nofun⟩
  | jpegRestart =>
    rw [fetch_jpegRestart hp]
    exact fits_unless <| fits_unless ⟨by rw [hp]; rfl, rfl, id, nofun⟩

/-- Inside a call: what was fetched is run, or the failure of the fetch taken. -/
theorem headerOk_runFetched (h : s.HeaderOk) : Answers State.HeaderOk (runFetched (fetch s)) := by
  have hfits := fetch_fits s
  cases hfetch : fetch s with
  | element f w u =>
    rw [hfetch] at hfits
    obtain ⟨hat, hpoint, hkeeps, hcolor⟩ := hfits
    show Answers State.HeaderOk (runElement f w u)
    unfold runElement
    split
    · rename_i i hi
      obtain ⟨-, rfl, rfl⟩ := decodedInstructionsAreWellFormed f w i hi
      exact headerOk_element (hkeeps h) (hpoint ▸ hat) hcolor
    · trivial
  | fail k u => exact headerOk_failCall k u
  | refuse r => trivial

/-! The host's operations: at rest, and but for a command they leave the core there. -/

theorem headerOk_writeRegister {no : Nat} {w : Word} (h : u.HeaderOk) :
    Answers State.HeaderOk (writeRegister no w u) := by
  refine answers_ite ?_ <| answers_ite h <| answers_ite h <| answers_ite h <| answers_ite h <| answers_ite trivial trivial
  unfold writeCommand
  split
  · rename_i i hi
    exact headerOk_command (formatOf_of_decode_cmd hi) _
  · trivial

theorem headerOk_runHostOp {op : HostOp} (h : u.HeaderOk) : Answers State.HeaderOk (runHostOp op u) := by
  cases op with
  | writeReg no w => exact headerOk_writeRegister h
  | readReg no =>
    show Answers State.HeaderOk (readRegister no u)
    unfold readRegister
    split
    · exact h
    · trivial
  | writeInput i b => exact h
  | readBuf buf i =>
    show Answers State.HeaderOk (readBuffer buf i u)
    unfold readBuffer
    split
    · exact h
    · trivial
  | writeBuf buf i e => exact answers_ite (by cases buf <;> exact h) trivial
  | readOut i =>
    show Answers State.HeaderOk (readOutput i u)
    unfold readOutput
    split
    · exact h
    · trivial
  | reset => exact headerOk_atRest rfl rfl

theorem headerOk_step (h : s.HeaderOk) : Answers State.HeaderOk (step s) := by
  by_cases hp : s.point = .idle
  · cases hh : s.host with
    | nil =>
      rw [step_of_no_host hp hh]
      exact h
    | cons op rest =>
      rw [step_of_host hp hh]
      exact headerOk_runHostOp (u := { s with host := rest }) h
  · rw [step_in_call hp]
    exact headerOk_runFetched h

/-- Settles O9. Only IHDR sets `seen_ihdr`, after its checks, and it is taken only where no header was seen; IEND, and with it
ZLB, INF, the rows and the conversion, come after a seen header, and nothing on that way touches it. -/
theorem stepKeepsPngHeaderChecked : Obligations.StepKeepsPngHeaderChecked :=
  fun _ _ h hstep => (headerOk_step h).of_next hstep

end Sys2Proof.Machine

/-! SUPPORT. The bits of entropy-coded data (45_jpeg_entropy.md R304 to R307): `receive` and the walk over a tree both take them
off the front, one by one. -/

namespace Sys2Proof.Machine

variable {s : State} {j : Jbr} {b : Bool} {bits rest : List Bool} {nodes : List Node} {fuel k m v : Nat}

theorem jbrBit_of_cons (h : entropyBits s j = b :: rest) : ∃ j', jbrBit s j = some (b, j') ∧ entropyBits s j' = rest := by
  obtain ⟨j', hread, hrest, -⟩ := (jbrBit_spec s j).1 b rest h
  exact ⟨j', hread, hrest⟩

theorem jbrBit_of_nil (h : entropyBits s j = []) : jbrBit s j = none := (jbrBit_spec s j).2 h

/-- There are no more bits than the walk of `jdecode` is given. -/
theorem entropyBits_length_le (s : State) (j : Jbr) :
    (entropyBits s j).length ≤ 8 * (inLength s - j.pos) + j.cnt := by
  induction hbits : entropyBits s j generalizing j with
  | nil => exact Nat.zero_le _
  | cons b rest ih =>
    obtain ⟨j', -, hrest, hroom⟩ := (jbrBit_spec s j).1 b rest hbits
    exact Nat.le_trans (Nat.succ_le_succ (ih j' hrest)) hroom

/-! `receive` (R305). -/

/-- The bits received are appended to those before them, as the low end of the number. -/
theorem jbrReceive_of_append (h : entropyBits s j = bits ++ rest) (v : Nat) :
    ∃ j', jbrReceive s bits.length v j = some (bits.foldl (fun v b => 2 * v + b.toNat) v, j') ∧ entropyBits s j' = rest := by
  induction bits generalizing j v with
  | nil => exact ⟨j, rfl, h⟩
  | cons b bits ih =>
    obtain ⟨j', hread, hrest⟩ := jbrBit_of_cons h
    rw [List.length_cons, jbrReceive, hread]
    exact ih hrest (2 * v + b.toNat)

theorem jbrReceive_short {n : Nat} (h : (entropyBits s j).length < n) (v : Nat) : jbrReceive s n v j = none := by
  induction n generalizing j v with
  | zero => cases h
  | succ n ih =>
    rw [jbrReceive]
    cases hbits : entropyBits s j with
    | nil => rw [jbrBit_of_nil hbits]
    | cons b rest =>
      obtain ⟨j', hread, hrest⟩ := jbrBit_of_cons hbits
      rw [hbits, ← hrest] at h
      rw [hread]
      exact ih (Nat.lt_of_succ_lt_succ h) _

/-! The walk over a tree (R307). -/

/-- The walk follows the code function of the tree (10_state.md R27). -/
theorem jwalkTree_of_code (hbits : entropyBits s j = bits ++ rest) (hfuel : bits.length ≤ fuel)
    (hcode : treeCode nodes k bits = some v) :
    ∃ j', jwalkTree nodes s fuel k j = .leaf v j' ∧ entropyBits s j' = rest := by
  induction bits generalizing fuel k j with
  | nil => cases hcode
  | cons b bits ih =>
    obtain ⟨fuel, rfl⟩ := Nat.exists_eq_add_of_le' (Nat.le_trans (Nat.le_add_left 1 _) hfuel)
    obtain ⟨j', hread, hrest⟩ := jbrBit_of_cons hbits
    rw [treeCode] at hcode
    simp only [jwalkTree, hread]
    cases hchild : childOf nodes k b with
    | none => simp [hchild] at hcode
    | some c =>
      cases hnode : nodes[c]? with
      | none => simp [hchild, hnode] at hcode
      | some node =>
        simp only [hchild, hnode] at hcode ⊢
        by_cases hleaf : node.kind = .leaf
        · rw [if_pos hleaf] at hcode ⊢
          obtain ⟨rfl, hsym⟩ : bits = [] ∧ node.sym = v := by simpa using hcode
          exact ⟨j', by rw [hsym], hrest⟩
        · rw [if_neg hleaf] at hcode ⊢
          exact ih hrest (Nat.le_of_succ_le_succ hfuel) hcode

/-- The walk follows a path of internal nodes, and goes on from its end. -/
theorem jwalkTree_of_path (hbits : entropyBits s j = bits ++ rest) (hpath : treePath nodes k bits = some m) (fuel : Nat) :
    ∃ j', jwalkTree nodes s (fuel + bits.length) k j = jwalkTree nodes s fuel m j' ∧ entropyBits s j' = rest := by
  induction bits generalizing k j with
  | nil =>
    cases hpath
    exact ⟨j, rfl, hbits⟩
  | cons b bits ih =>
    obtain ⟨j', hread, hrest⟩ := jbrBit_of_cons hbits
    rw [treePath] at hpath
    rw [List.length_cons, ← Nat.add_assoc]
    simp only [jwalkTree, hread]
    cases hchild : childOf nodes k b with
    | none => simp [hchild] at hpath
    | some c =>
      cases hnode : nodes[c]? with
      | none => simp [hchild, hnode] at hpath
      | some node =>
        simp only [hchild, hnode] at hpath ⊢
        by_cases hleaf : node.kind = .leaf
        · rw [if_pos hleaf] at hpath
          cases hpath
        · rw [if_neg hleaf] at hpath ⊢
          exact ih hrest hpath

theorem jwalkTree_of_missing (hbits : entropyBits s j = b :: rest) (hmissing : childOf nodes k b = none) (fuel : Nat) :
    ∃ j', jwalkTree nodes s (fuel + 1) k j = .missing j' := by
  obtain ⟨j', hread, -⟩ := jbrBit_of_cons hbits
  exact ⟨j', by simp only [jwalkTree, hread, hmissing]⟩

theorem jwalkTree_of_nil (h : entropyBits s j = []) (fuel : Nat) : jwalkTree nodes s fuel k j = .exhausted := by
  cases fuel with
  | zero => rfl
  | succ fuel => simp only [jwalkTree, jbrBit_of_nil h]

/-! `jdecode` (R307). -/

section

variable {tree : Tree}

/-- Bits that are a code are decoded to its symbol, and no more is read. -/
theorem jdecode_of_code (hbits : entropyBits s s.jbr = bits ++ rest) (hcode : treeCode tree.nodes 0 bits = some v) :
    ∃ j, jdecode tree s = .ok v { s with jbr := j } ∧ entropyBits s j = rest := by
  have hroom := entropyBits_length_le s s.jbr
  rw [hbits, List.length_append] at hroom
  obtain ⟨j, hwalk, hrest⟩ := jwalkTree_of_code hbits (Nat.le_trans (Nat.le_add_right _ _) hroom) hcode
  exact ⟨j, by rw [jdecode, hwalk], hrest⟩

/-- The bit after a path is read, and then its child is missing. -/
theorem jdecode_of_missing (hbits : entropyBits s s.jbr = bits ++ b :: rest) (hpath : treePath tree.nodes 0 bits = some m)
    (hmissing : childOf tree.nodes m b = none) : ∃ j, jdecode tree s = .fail .invalidCode { s with jbr := j } := by
  have hroom := entropyBits_length_le s s.jbr
  rw [hbits, List.length_append, List.length_cons] at hroom
  obtain ⟨fuel, hfuel⟩ : ∃ fuel, 8 * (inLength s - s.jbr.pos) + s.jbr.cnt = fuel + 1 + bits.length :=
    ⟨8 * (inLength s - s.jbr.pos) + s.jbr.cnt - 1 - bits.length, by omega⟩
  obtain ⟨j, hwalk, hrest⟩ := jwalkTree_of_path hbits hpath (fuel + 1)
  obtain ⟨j', hend⟩ := jwalkTree_of_missing hrest hmissing fuel
  exact ⟨j', by rw [jdecode, hfuel, hwalk, hend]⟩

/-- A path that uses up the bits leaves none to go on with. -/
theorem jdecode_of_exhausted (hpath : treePath tree.nodes 0 (entropyBits s s.jbr) = some m) :
    jdecode tree s = .fail .truncatedStream s := by
  obtain ⟨fuel, hfuel⟩ := Nat.exists_eq_add_of_le' (entropyBits_length_le s s.jbr)
  obtain ⟨j, hwalk, hrest⟩ := jwalkTree_of_path (List.append_nil _).symm hpath fuel
  rw [jwalkTree_of_nil hrest] at hwalk
  rw [jdecode, hfuel, hwalk]

/-! The fetch of a symbol. -/

variable {f : Format}

theorem fetch_jpegSymbol {p : Point}
    (hrow : (p, f, tree) ∈ [(Point.jpegDc, Format.jpegDc, s.jdc.getD s.jc.td .absent),
      (.jpegAc, .jpegAc, s.jac.getD s.jc.ta .absent)])
    (hp : s.point = p) : fetch s = fetchJpegSymbol f tree s := by
  simp only [List.mem_cons, Prod.mk.injEq, List.not_mem_nil, or_false] at hrow
  rcases hrow with ⟨rfl, rfl, rfl⟩ | ⟨rfl, rfl, rfl⟩ <;> simp only [fetch, hp]

theorem fetchJpegSymbol_valid (h : tree.valid = true) : fetchJpegSymbol f tree s = .ofRes f (jdecode tree s) := if_pos h

theorem fetchJpegSymbol_not_valid (h : tree.valid = false) : fetchJpegSymbol f tree s = .refuse .treeNotValid :=
  if_neg (Bool.eq_false_iff.1 h)

end

/-- Settles O60. The bits left are cut where the number or the code ends; `receive` and the walk take what is in front. -/
theorem jpegBitsAreDeliveredInOrder : Obligations.JpegBitsAreDeliveredInOrder := by
  refine ⟨fun s j n => ⟨fun hn => ?_, fun hn => jbrReceive_short hn 0⟩, ?_⟩
  · have hreceive := jbrReceive_of_append (List.take_append_drop n (entropyBits s j)).symm 0
    rwa [List.length_take_of_le hn] at hreceive
  · intro s p f tree hrow hp bits
    rw [fetch_jpegSymbol hrow hp]
    refine ⟨fetchJpegSymbol_not_valid, fun hvalid n hn => ?_⟩
    rw [fetchJpegSymbol_valid hvalid]
    have hcut : entropyBits s s.jbr = bits.take n ++ bits.drop n := (List.take_append_drop n bits).symm
    refine ⟨fun v hcode => ?_, fun m hpath => ⟨fun b hb hmissing => ?_, fun hall => ?_⟩⟩
    · obtain ⟨j, hdecode, hrest⟩ := jdecode_of_code hcut hcode
      exact ⟨j, congrArg (Fetched.ofRes f) hdecode, hrest⟩
    · obtain ⟨hlt, rfl⟩ := List.getElem?_eq_some_iff.1 hb
      rw [List.drop_eq_getElem_cons hlt] at hcut
      obtain ⟨j, hdecode⟩ := jdecode_of_missing hcut hpath hmissing
      exact ⟨j, congrArg (Fetched.ofRes f) hdecode⟩
    · rw [List.take_of_length_le (Nat.le_of_eq hall.symm)] at hpath
      exact congrArg (Fetched.ofRes f) (jdecode_of_exhausted hpath)

end Sys2Proof.Machine

/-! SUPPORT. JHUF and JCOEF, each with its exact outcome (45_jpeg_entropy.md R301, R303, R308 to R316). -/

namespace Sys2Proof.Machine

variable {s : State}

/-! `extend` (R309). -/

@[simp] theorem extend_zero (m : Nat) : extend m 0 = 0 := rfl

theorem extend_of_le {m t : Nat} (h : 2 ^ t ≤ m) : extend m (t + 1) = m := if_pos h

theorem extend_of_lt {m t : Nat} (h : m < 2 ^ t) : extend m (t + 1) = (m : Int) - ((2 : Int) ^ (t + 1) - 1) :=
  if_neg (Nat.not_le.2 h)

/-- The top bit of a magnitude tells which half of its category it is in. -/
theorem testBit_top_iff {m t : Nat} (h : m < 2 ^ (t + 1)) : m.testBit t = true ↔ 2 ^ t ≤ m :=
  ⟨Nat.ge_two_pow_of_testBit, fun hle => Nat.testBit_of_two_pow_le_and_two_pow_add_one_gt hle h⟩

/-- Settles O50. The top bit tells the two halves apart; each is shifted onto its range of values. -/
theorem extendCoversItsCategory : Obligations.ExtendCoversItsCategory := by
  refine ⟨extend_zero, fun s hs => ?_⟩
  obtain ⟨t, rfl⟩ := Nat.exists_eq_add_of_le' hs
  have hcast : ((2 ^ t : Nat) : Int) = (2 : Int) ^ t := Nat.cast_pow 2 t
  have hint : (2 : Int) ^ (t + 1) = 2 * 2 ^ t := pow_succ' 2 t
  have hnat : 2 ^ (t + 1) = 2 * 2 ^ t := pow_succ' 2 t
  rw [Nat.add_sub_cancel]
  refine ⟨fun m hm => ?_, fun v hv => ?_⟩
  · rw [← Bool.not_eq_true, testBit_top_iff hm]
    refine ⟨fun hle => ?_, fun hlt => ?_⟩
    · rw [extend_of_le hle]
      exact ⟨rfl, by omega, by omega⟩
    · rw [extend_of_lt (Nat.not_le.1 hlt)]
      exact ⟨rfl, by omega, by omega⟩
  · rcases hv with ⟨hlow, hhigh⟩ | ⟨hlow, hhigh⟩
    · refine ⟨v.toNat, by omega, ?_⟩
      rw [extend_of_le (by omega)]
      omega
    · refine ⟨(v + (2 ^ (t + 1) - 1)).toNat, by omega, ?_⟩
      rw [extend_of_lt (by omega)]
      omega

/-! The commands. -/

/-- What the three commands do when taken (R301, R308, R310). -/
theorem exec_jhufBuild (hr : s.Ready) : exec .jhufBuild s =
    if s.arg0.toNat < 8 ∨ 15 < s.arg0.toNat ∨ 256 < (inputCounts s).sum ∨ inLength s < 16 + (inputCounts s).sum then
      .refused .operandOutOfRange
    else if jadmitted (inputCounts s) then
      .next (endOk (releaseJhuf
        (setJpegSlot (beginCall .plain s) s.arg0.toNat (jbuildTree (inputCounts s) (inputSymbols s)))))
    else .refused .lengthsNotAdmitted := by
  rw [exec, execJhufBuild, whenIdle_ready hr]

theorem exec_jcReset (hr : s.Ready) : exec .jcReset s =
    if inLength s < s.arg0.toNat then .refused .operandOutOfRange
    else .next (endOk (resetEntropy s.arg0.toNat (beginCall .plain s))) := by
  rw [exec, execJcReset, whenIdle_ready hr]

theorem exec_jcBlock (hr : s.Ready) (hl : s.jbrLive = true) : exec .jcBlock s =
    if 2 < s.arg0.toNat ∨ 3 < blockTd s ∨ 3 < blockTa s then .refused .operandOutOfRange
    else if dcValid s (blockTd s) = false ∨ acValid s (blockTa s) = false then .refused .treeNotValid
    else .next (beginBlock s.arg0.toNat (blockTd s) (blockTa s) (beginCall (.block s.arg0.toNat) s)) := by
  rw [exec, execJcBlock, whenIdle_ready hr, if_neg (Bool.ne_false_iff.2 hl)]

/-- The counts and the symbols are the input bytes one by one (R301). -/
theorem inputCounts_eq (s : State) : inputCounts s = (List.range 16).map fun k => (inByte s k).toNat := by
  simp only [inputCounts, inBytes, List.map_map, Function.comp_def, Nat.zero_add]

theorem inputSymbols_eq (s : State) :
    inputSymbols s = (List.range (inputCounts s).sum).map fun k => (inByte s (16 + k)).toNat := by
  simp only [inputSymbols, inBytes, List.map_map, Function.comp_def]

/-- The slot number names a DC or an AC slot; the other kind stays (10_state.md R28). -/
theorem setJpegSlot_eq (s : State) (n : Nat) (t : Tree) : setJpegSlot s n t = { s with
    jdc := if n < 12 then s.jdc.set (n - 8) t else s.jdc
    jac := if n < 12 then s.jac else s.jac.set (n - 12) t } := by
  unfold setJpegSlot
  split <;> rfl

/-- Settles O47. The ranges of the operands are tested first, then the table or the trees. -/
theorem jpegUnitCommandsSetUpABlock : Obligations.JpegUnitCommandsSetUpABlock := by
  intro s hr counts syms slot
  have hbuild := exec_jhufBuild hr
  rw [inputSymbols_eq, inputCounts_eq] at hbuild
  refine ⟨fun h8 h15 h256 hin => ?_, fun hout => ?_, fun hin => ?_, fun hout => ?_, fun hl => ?_⟩
  · rw [if_neg (show ¬ (slot < 8 ∨ 15 < slot ∨ 256 < counts.sum ∨ inLength s < 16 + counts.sum) by omega)] at hbuild
    refine ⟨fun hadm => ?_, fun hadm => ?_⟩
    · rw [hbuild, if_pos hadm, setJpegSlot_eq]
      rfl
    · rw [hbuild, if_neg (Bool.eq_false_iff.1 hadm)]
  · rw [hbuild, if_pos hout]
  · rw [exec_jcReset hr, if_neg (Nat.not_lt.2 hin)]
    rfl
  · rw [exec_jcReset hr, if_pos hout]
  · intro c td ta
    rw [exec_jcBlock hr hl]
    have hrange : c ≤ 2 → td ≤ 3 → ta ≤ 3 → ¬ (2 < c ∨ 3 < td ∨ 3 < ta) := by omega
    refine ⟨fun hc htd hta hdc hac => (if_neg (hrange hc htd hta)).trans (if_neg ?_), fun hout => if_pos hout,
      fun hc htd hta hinvalid => (if_neg (hrange hc htd hta)).trans (if_pos hinvalid)⟩
    exact fun hinvalid => hinvalid.elim (Bool.ne_false_iff.2 hdc) (Bool.ne_false_iff.2 hac)

/-! The symbols of a block. -/

/-- A failure of a block decode, after its place may have moved (R315, R403, R405). -/
theorem fails_raise_block (k : FailKind) (s : State) (j : Jc) : Fails (raise k { s with jc := j }) s k :=
  ⟨_, rfl, failedFrom_failCall ⟨rfl, rfl, rfl, rfl, rfl, rfl, rfl, rfl⟩ rfl rfl rfl rfl⟩

theorem receive_of_some {n m : Nat} {j : Jbr} (h : jbrReceive s n 0 s.jbr = some (m, j)) :
    receive n s = .ok m { s with jbr := j } := by
  rw [receive, h]

theorem receive_of_none {n : Nat} (h : jbrReceive s n 0 s.jbr = none) : receive n s = .fail .truncatedStream s := by
  rw [receive, h]

/-- The AC loop goes on while there is a place left, and then is at the end of the block (R310). -/
theorem acLoop_of_le (h : s.jc.k ≤ 63) : acLoop s = .next { s with point := .jpegAc } := if_pos h

theorem acLoop_of_lt (h : 63 < s.jc.k) : acLoop s = exec .acEob s := if_neg (Nat.not_le.2 h)

/-- The end of the block of `JC_BLOCK` (R310). -/
theorem blockDone_block {c : Nat} (h : s.running = some (.block c)) :
    blockDone s = .next { s.ended with resValue := BitVec.ofInt 32 (s.coef.getD 0 0) } := by
  rw [blockDone, h]
  rfl

theorem exec_acRunsize (rs : Byte) (s : State) : exec (.acRunsize rs) s =
    if 63 < s.jc.k + rs.toNat / 16 then raise .invalidCode { s with jc := { s.jc with k := s.jc.k + rs.toNat / 16 } }
    else (receive (rs.toNat % 16) s).run fun m u => acLoop { u with
      coef := u.coef.set (s.jc.k + rs.toNat / 16) (extend m (rs.toNat % 16))
      jc := { u.jc with k := s.jc.k + rs.toNat / 16 + 1 } } := rfl

/-- Settles O48. Each symbol receives its bits, or they are not there, and goes back to the test of the AC loop. -/
theorem blockSymbolsFillTheBlock : Obligations.BlockSymbolsFillTheBlock := by
  intro s
  refine ⟨fun t => ⟨fun m j hm => ?_, fun hm => ?_⟩, fun c hc => blockDone_block hc, ⟨fun hk => ?_, fun hk => ?_⟩,
    fun rs => ?_⟩
  · rw [exec, execDcCat, receive_of_some hm, Res.run, acLoop_of_le (show 1 ≤ 63 by decide)]
    rfl
  · rw [exec, execDcCat, receive_of_none hm]
    exact fails_raise_self _ s
  · exact acLoop_of_le hk
  · exact acLoop_of_lt hk
  · intro k
    rw [exec_acRunsize]
    refine ⟨fun hk => ?_, fun hk hm => ?_, fun hk m j hm => ?_⟩
    · rw [if_pos hk]
      exact fails_raise_block _ s _
    · rw [if_neg (Nat.not_lt.2 hk), receive_of_none hm]
      exact fails_raise_self _ s
    · rw [if_neg (Nat.not_lt.2 hk), receive_of_some hm]
      exact ⟨fun hlt => acLoop_of_le hlt, fun hlast => acLoop_of_lt (Nat.lt_succ_of_le hlast.ge)⟩

end Sys2Proof.Machine

/-! SUPPORT. JDQ: the load of a quantization table and the dequantization of a block, each with its exact outcome
(46_jpeg_dequant_idct.md R330, R331, R333). -/

namespace Sys2Proof.Machine

variable {s : State}

theorem getD_map_range {α : Type} {n k : Nat} (h : k < n) (f : Nat → α) (d : α) : ((List.range n).map f).getD k d = f k := by
  rw [getD_of_lt (by simpa using h), List.getElem_map, List.getElem_range]

theorem inBytes_zero_getD {n k : Nat} (h : k < n) (s : State) : (inBytes s 0 n).getD k 0#8 = inByte s k := by
  rw [inBytes, getD_map_range h, Nat.zero_add]

/-! The commands. -/

theorem exec_jdqLoad (hr : s.Ready) : exec .jdqLoad s =
    if 3 < quantLoadId s ∨ 32 ≤ s.arg0.toNat ∨ inLength s < quantLoadBytes s then .refused .operandOutOfRange
    else (loadQuant (quantLoadId s) (quantLoadWide s) (quantEntries (quantLoadWide s) (inBytes s 0 (quantLoadBytes s)))
      (beginCall (.quantLoad (quantLoadId s)) s)).run fun _ t => .next (endOk t) := by
  rw [exec, execJdqLoad, whenIdle_ready hr]

theorem exec_jdqBlock (hr : s.Ready) : exec .jdqBlock s =
    if 3 < s.arg0.toNat then .refused .operandOutOfRange
    else (dequantize s.arg0.toNat (beginCall .dequant s)).run fun _ t => .next (endOk t) := by
  rw [exec, execJdqBlock, whenIdle_ready hr]

/-! The load of a table (R330, R333). -/

theorem quantEntries_inBytes_getD {k : Nat} (hk : k < 64) (p : Bool) (s : State) :
    (quantEntries p (inBytes s 0 (if p then 128 else 64))).getD k 0 =
      if p then (inByte s (2 * k)).toNat * 256 + (inByte s (2 * k + 1)).toNat else (inByte s k).toNat := by
  cases p with
  | false =>
    simp only [quantEntries, inBytes, Nat.zero_add, List.map_map, Bool.false_eq_true, if_false]
    exact getD_map_range hk _ 0
  | true =>
    rw [if_pos rfl, (quantEntries_wide 64 _ (inBytes_length s 0 128)).2 k hk, inBytes_zero_getD (by omega),
      inBytes_zero_getD (by omega), if_pos rfl]

/-- The entries of a load are the 64 numbers in the input bytes (R330). -/
theorem quantEntries_inBytes {p : Bool} {entries : List Nat} (hlen : entries.length = 64)
    (hget : ∀ k, k < 64 → entries.getD k 0 =
      if p then (inByte s (2 * k)).toNat * 256 + (inByte s (2 * k + 1)).toNat else (inByte s k).toNat) :
    quantEntries p (inBytes s 0 (if p then 128 else 64)) = entries := by
  have hfits := (quantFits_quantEntries (inBytes_length s 0 (if p then 128 else 64))).1
  refine List.ext_getElem (hfits.trans hlen.symm) fun k hk hk' => ?_
  rw [← getD_of_lt hk 0, ← getD_of_lt hk' 0, quantEntries_inBytes_getD (hfits ▸ hk), hget k (hlen ▸ hk')]

theorem loadQuant_of_mem {t : Nat} {p : Bool} {entries : List Nat} (h : 0 ∈ entries) (s : State) :
    loadQuant t p entries s =
      .fail .invalidTable { s with qtDef := s.qtDef.set t false, running := noteBadTable t s.running } :=
  if_pos (List.contains_iff_mem.2 h)

theorem loadQuant_of_not_mem {t : Nat} {p : Bool} {entries : List Nat} (h : 0 ∉ entries) (s : State) :
    loadQuant t p entries s = .ok () (s.withQuant t p entries) :=
  if_neg (mt List.contains_iff_mem.1 h)

/-! The dequantization of a block (R331, R333). -/

theorem dequantize_of_defined {t : Nat} (hdef : quantDefined s t = true) (hne : ∀ k, k < 64 → quantEntry s t k ≠ 0) :
    dequantize t s = .ok () { s with dq := (List.range 64).map (dequantValue s t) } := by
  refine if_neg (not_or.2 ⟨Bool.ne_false_iff.2 hdef, fun hany => ?_⟩)
  obtain ⟨k, hk, hzero⟩ := List.any_eq_true.1 hany
  exact hne k (List.mem_range.1 hk) (beq_iff_eq.1 hzero)

theorem dequantize_of_undefined {t : Nat} (h : quantDefined s t = false ∨ ∃ k, k < 64 ∧ quantEntry s t k = 0) :
    dequantize t s = .fail .invalidTable s :=
  if_pos <| h.imp_right fun ⟨k, hk, hzero⟩ => List.any_eq_true.2 ⟨k, List.mem_range.2 hk, beq_iff_eq.2 hzero⟩

/-- A failure of a load or a dequantization, with `QT_def` changed or not (R333, R403, R405). -/
theorem failedFrom_quant (k : FailKind) (c : Call) (s : State) (d : List Bool) :
    s.FailedFrom (failCall k { beginCall c s with qtDef := d }) k :=
  failedFrom_failCall ⟨rfl, rfl, rfl, rfl, rfl, rfl, rfl, rfl⟩ rfl rfl rfl rfl

/-- Settles O51. The operands are tested first; then a zero entry, or a table that is not there, fails the call. -/
theorem quantizationTablesLoadAndApply : Obligations.QuantizationTablesLoadAndApply := by
  intro s hr
  refine ⟨⟨fun ht harg hin entries hlen hget => ?_, fun hout => (exec_jdqLoad hr).trans (if_pos hout)⟩,
    ⟨fun ht => ?_, fun ht => (exec_jdqBlock hr).trans (if_pos ht)⟩⟩
  · have hentries : quantEntries (quantLoadWide s) (inBytes s 0 (quantLoadBytes s)) = entries :=
      quantEntries_inBytes hlen hget
    have hrange : ¬ (3 < quantLoadId s ∨ 32 ≤ s.arg0.toNat ∨ inLength s < quantLoadBytes s) :=
      not_or.2 ⟨Nat.not_lt.2 ht, not_or.2 ⟨Nat.not_le.2 harg, Nat.not_lt.2 hin⟩⟩
    rw [exec_jdqLoad hr, if_neg hrange, hentries]
    refine ⟨fun hne => ?_, fun hzero _ => ?_⟩
    · rw [loadQuant_of_not_mem hne]
      rfl
    · rw [loadQuant_of_mem hzero]
      exact ⟨_, rfl, failedFrom_quant _ _ s _, rfl⟩
  · rw [exec_jdqBlock hr, if_neg (Nat.not_lt.2 ht)]
    refine ⟨fun hdef hne => ?_, fun hbad _ => ?_⟩
    · rw [dequantize_of_defined (s := beginCall .dequant s) hdef hne]
      rfl
    · rw [dequantize_of_undefined (s := beginCall .dequant s) hbad]
      exact ⟨_, rfl, failedFrom_quant _ .dequant s s.qtDef⟩

end Sys2Proof.Machine

/-! SUPPORT. JIDCT: the two passes over the un-zigzagged block as one double sum (46_jpeg_dequant_idct.md R335 to R337,
R339). -/

namespace Sys2Proof.Machine

variable {s : State}

theorem exec_jidctBlock (hr : s.Ready) : exec .jidctBlock s = .next { s.afterOk with samp := idct s.dq } := by
  rw [exec, execJidctBlock, whenIdle_ready hr]
  rfl

/-! The un-zigzagged block (R334, R335). -/

theorem placeNatural_getElem?_of_not_mem {is : List Nat} {i : Nat} (h : i ∉ is) (vs f : List Int) :
    (placeNatural is vs f)[i]? = f[i]? := by
  induction is generalizing vs f with
  | nil => rfl
  | cons o is ih =>
    cases vs with
    | nil => rfl
    | cons v vs =>
      obtain ⟨hne, hrest⟩ := not_or.1 (mt List.mem_cons.2 h)
      rw [placeNatural, ih hrest, List.getElem?_set_ne (Ne.symm hne)]

/-- At an index that is placed once, over a default, stands the value that was listed with it. -/
theorem placeNatural_getD {is : List Nat} {i : Nat} (hn : is.Nodup) (hi : i ∈ is) (vs : List Int) {f : List Int} {d : Int}
    (hlt : i < f.length) (hf : f.getD i d = d) : (placeNatural is vs f).getD i d = vs.getD (is.idxOf i) d := by
  induction is generalizing vs f with
  | nil => cases hi
  | cons o is ih =>
    obtain ⟨ho, hn⟩ := List.nodup_cons.1 hn
    cases vs with
    | nil => exact hf
    | cons v vs =>
      rw [placeNatural]
      by_cases h : i = o
      · subst h
        rw [List.getD_eq_getElem?_getD, placeNatural_getElem?_of_not_mem ho, List.getElem?_set_self hlt,
          List.idxOf_cons_self]
        rfl
      · rw [List.idxOf_cons_ne _ (Ne.symm h), List.getD_cons_succ]
        refine ih hn ((List.mem_cons.1 hi).resolve_left h) vs (by rwa [List.length_set]) ?_
        rwa [List.getD_eq_getElem?_getD, List.getElem?_set_ne (Ne.symm h), ← List.getD_eq_getElem?_getD]

theorem zigzag_nodup : zigzag.Nodup := by decide

theorem mem_zigzag : ∀ i < 64, i ∈ zigzag := by decide

theorem unzigzag_getD {i : Nat} (h : i < 64) (dq : List Int) : (unzigzag dq).getD i 0 = dq.getD (zigzag.idxOf i) 0 :=
  placeNatural_getD zigzag_nodup (mem_zigzag i h) dq (by rwa [List.length_replicate]) (List.getD_replicate _ h)

/-! The two passes (R336). -/

/-- One row of `F` against the kernel: `T[v][x]` of R336. -/
def idctRowSum (dq : List Int) (v x : Nat) : Int :=
  ((List.range 8).map fun u => kernelAt u x * dq.getD (zigzag.idxOf (8 * v + u)) 0).sum

/-- The rows against the kernel: the double sum of R336, before it is rounded. -/
def idctSum (dq : List Int) (y x : Nat) : Int := ((List.range 8).map fun v => kernelAt v y * idctRowSum dq v x).sum

theorem idctRows_getD {v x : Nat} (hv : v < 8) (hx : x < 8) (dq : List Int) :
    (idctRows (unzigzag dq)).getD (8 * v + x) 0 = idctRowSum dq v x := by
  rw [idctRows, getD_map_range (by omega), show (8 * v + x) % 8 = x by omega, show (8 * v + x) / 8 = v by omega]
  refine congrArg List.sum (List.map_congr_left fun u hu => ?_)
  have hu := List.mem_range.1 hu
  rw [unzigzag_getD (by omega)]

theorem idct_getElem {i : Nat} {dq : List Int} (h : i < (idct dq).length) :
    (idct dq)[i] = idctSample (idctSum dq (i / 8) (i % 8)) := by
  simp only [idct, idctColumns, List.getElem_map, List.getElem_range]
  rw [idct_length] at h
  refine congrArg (fun terms => idctSample (List.sum terms)) (List.map_congr_left fun v hv => ?_)
  rw [idctRows_getD (List.mem_range.1 hv) (by omega)]

/-- Settles O52. Un-zigzagging and the two passes give the double sum at every place of the block. -/
theorem inverseTransformIsTheDoubleSum : Obligations.InverseTransformIsTheDoubleSum := by
  refine fun s hr => ⟨_, exec_jidctBlock hr, idct_length s.dq, fun x y hx hy => ?_⟩
  have hlt : 8 * y + x < (idct s.dq).length := by
    rw [idct_length]
    omega
  rw [getD_of_lt hlt, idct_getElem, show (8 * y + x) / 8 = y by omega, show (8 * y + x) % 8 = x by omega]
  rfl

/-! A block that is all DC (R337, R339). -/

/-- Every other coefficient stands behind the first (R334). -/
theorem zigzag_idxOf_pos : ∀ i < 64, 0 < i → 0 < zigzag.idxOf i := by decide

/-- The kernel's DC row (R337). -/
theorem kernelAt_zero : ∀ x < 8, kernelAt 0 x = 2896 := by decide

/-- A sum of which only the first term counts. -/
theorem sum_map_range_of_zero {n : Nat} {f : Nat → Int} (h : ∀ k, k < n → f (k + 1) = 0) :
    ((List.range (n + 1)).map f).sum = f 0 := by
  rw [List.range_succ_eq_map, List.map_cons, List.sum_cons, List.map_map, List.sum_eq_zero, add_zero]
  intro v hv
  obtain ⟨k, hk, rfl⟩ := List.mem_map.1 hv
  exact h k (List.mem_range.1 hk)

section

variable (d : Int) {v x y : Nat}

theorem dcOnly_getD_of_pos {i : Nat} (h : i < 64) (hi : 0 < i) :
    (d :: List.replicate 63 0).getD (zigzag.idxOf i) 0 = 0 := by
  obtain ⟨k, hk⟩ := Nat.exists_eq_add_of_le' (zigzag_idxOf_pos i h hi)
  rw [hk, List.getD_cons_succ, List.getD_eq_getElem?_getD, List.getElem?_getD_replicate_default_eq]

/-- Of each row of `F` at most the first coefficient counts. -/
theorem idctRowSum_dcOnly (hv : v < 8) :
    idctRowSum (d :: List.replicate 63 0) v x =
      kernelAt 0 x * (d :: List.replicate 63 0).getD (zigzag.idxOf (8 * v)) 0 :=
  sum_map_range_of_zero fun u hu => by rw [dcOnly_getD_of_pos d (by omega) (by omega), mul_zero]

/-- Of the rows of `F` only the first counts. -/
theorem idctSum_dcOnly (hy : y < 8) (hx : x < 8) : idctSum (d :: List.replicate 63 0) y x = 8386816 * d := by
  have hrest : ∀ v, v < 7 → kernelAt (v + 1) y * idctRowSum (d :: List.replicate 63 0) (v + 1) x = 0 := fun v hv => by
    rw [idctRowSum_dcOnly d (by omega), dcOnly_getD_of_pos d (by omega) (by omega), mul_zero, mul_zero]
  calc idctSum (d :: List.replicate 63 0) y x
      = kernelAt 0 y * idctRowSum (d :: List.replicate 63 0) 0 x := sum_map_range_of_zero hrest
    _ = kernelAt 0 y * (kernelAt 0 x * d) := by rw [idctRowSum_dcOnly d (by decide)]; rfl
    _ = 8386816 * d := by rw [kernelAt_zero y hy, kernelAt_zero x hx]; omega

theorem idct_dcOnly : idct (d :: List.replicate 63 0) = List.replicate 64 (idctSample (8386816 * d)) := by
  refine List.eq_replicate_iff.2 ⟨idct_length _, fun b hb => ?_⟩
  obtain ⟨i, hi, rfl⟩ := List.getElem_of_mem hb
  have hlt : i < 64 := idct_length _ ▸ hi
  rw [idct_getElem, idctSum_dcOnly d (by omega) (by omega)]

end

/-- Settles O53. Only the kernel's DC row meets the one coefficient; the zero block is the case `d = 0`. -/
theorem dcOnlyBlocksAreUniform : Obligations.DcOnlyBlocksAreUniform := by
  intro s hr
  rw [exec_jidctBlock hr]
  refine ⟨fun hdq => ?_, fun d hdq => ?_⟩
  · rw [hdq, List.replicate_succ, idct_dcOnly]
    rfl
  · rw [hdq, idct_dcOnly]
    rfl

end Sys2Proof.Machine

/-! SUPPORT. JCC: the colour sums, rounded and clamped, and their distance from the exact reference (47_jpeg_color.md R350
to R354). -/

namespace Sys2Proof.Machine

/-! Clamping (R9). -/

theorem clamp_eq_max_min {lo hi : Int} (h : lo ≤ hi) (v : Int) : clamp v lo hi = max lo (min v hi) := by
  unfold clamp
  split
  · omega
  · split <;> omega

theorem clamp_of_mem {v lo hi : Int} (hlo : lo ≤ v) (hhi : v ≤ hi) : clamp v lo hi = v := by
  rw [clamp_eq_max_min (hlo.trans hhi), min_eq_left hhi, max_eq_right hlo]

/-- Clamping does not widen a difference. -/
theorem natAbs_clamp_sub_le {lo hi : Int} (h : lo ≤ hi) (a b : Int) :
    (clamp a lo hi - clamp b lo hi).natAbs ≤ (a - b).natAbs := by
  rw [clamp_eq_max_min h, clamp_eq_max_min h]
  omega

theorem clamp_byte_mem (v : Int) : 0 ≤ clamp v 0 255 ∧ clamp v 0 255 ≤ 255 := by
  rw [clamp_eq_max_min (by decide)]
  omega

/-! One channel (R351, R352). -/

/-- The clamped value fits the byte it is stored in. -/
theorem colorRound_toNat (v : Int) : ((colorRound v).toNat : Int) = clamp ((v + 32768) / 2 ^ 16) 0 255 := by
  obtain ⟨hlo, hhi⟩ := clamp_byte_mem ((v + 32768) / 2 ^ 16)
  have hmod : clamp ((v + 32768) / 2 ^ 16) 0 255 % 256 = clamp ((v + 32768) / 2 ^ 16) 0 255 :=
    Int.emod_eq_of_lt hlo (Int.lt_add_one_of_le hhi)
  calc ((colorRound v).toNat : Int)
      = ((clamp ((v + 32768) / 2 ^ 16) 0 255 % 256).toNat : Int) := congrArg Nat.cast (BitVec.toNat_ofInt ..)
    _ = clamp ((v + 32768) / 2 ^ 16) 0 255 := by rw [hmod, Int.toNat_of_nonneg hlo]

/-- A sum without chroma rounds to its luma (R352). -/
theorem colorRound_luma (y : Byte) : colorRound ((y.toNat : Int) * 2 ^ 16) = y := by
  have hy := y.isLt
  have hround : ((y.toNat : Int) * 2 ^ 16 + 32768) / 2 ^ 16 = y.toNat := by omega
  refine BitVec.eq_of_toNat_eq (Int.ofNat_inj.1 ?_)
  rw [colorRound_toNat, hround, clamp_of_mem (by omega) (by omega)]

section

variable {y cb cr : Byte}

theorem colorR_of_neutral (h : chroma cr = 0) : colorR y cr = y := by
  rw [colorR, h, mul_zero, add_zero]
  exact colorRound_luma y

theorem colorG_of_neutral (hb : chroma cb = 0) (hr : chroma cr = 0) : colorG y cb cr = y := by
  rw [colorG, hb, hr, mul_zero, mul_zero, sub_zero, sub_zero]
  exact colorRound_luma y

theorem colorB_of_neutral (h : chroma cb = 0) : colorB y cb = y := by
  rw [colorB, h, mul_zero, add_zero]
  exact colorRound_luma y

end

/-! The operand and the result of the commands (R351, R354). -/

theorem packRgb_toNat (r g b : Byte) : (packRgb r g b).toNat = r.toNat + g.toNat * 2 ^ 8 + b.toNat * 2 ^ 16 := by
  have hr := r.isLt
  have hg := g.isLt
  have hb := b.isLt
  rw [packRgb, BitVec.toNat_ofNat, Nat.mod_eq_of_lt (by omega)]

theorem packRgb_gray_toNat (y : Byte) : (packRgb y y y).toNat = y.toNat * 0x10101 := by
  rw [packRgb_toNat]
  omega

/-- Each lane of a packed result is its channel, and the top lane is empty. -/
theorem packRgb_lanes (r g b : Byte) :
    (packRgb r g b).toNat % 256 = r.toNat ∧ (packRgb r g b).toNat / 2 ^ 8 % 256 = g.toNat ∧
      (packRgb r g b).toNat / 2 ^ 16 % 256 = b.toNat ∧ (packRgb r g b).toNat < 2 ^ 24 := by
  have hr := r.isLt
  have hg := g.isLt
  have hb := b.isLt
  rw [packRgb_toNat]
  refine ⟨?_, ?_, ?_, ?_⟩ <;> omega

section

variable {s : State}

theorem argLane_toNat (s : State) (i : Nat) : (argLane s i).toNat = s.arg0.toNat / 2 ^ (8 * i) % 256 :=
  BitVec.toNat_ofNat ..

theorem argLane_zero_toNat (s : State) : (argLane s 0).toNat = s.arg0.toNat % 256 := by
  rw [argLane_toNat, Nat.mul_zero, Nat.pow_zero, Nat.div_one]

theorem exec_jccPixel (hr : s.Ready) : exec .jccPixel s = .next { s.afterOk with
    resValue := packRgb (colorR (argLane s 0) (argLane s 2)) (colorG (argLane s 0) (argLane s 1) (argLane s 2))
      (colorB (argLane s 0) (argLane s 1)) } := by
  rw [exec, execJccPixel, whenIdle_ready hr]
  rfl

theorem exec_jccGray (hr : s.Ready) : exec .jccGray s =
    .next { s.afterOk with resValue := packRgb (argLane s 0) (argLane s 0) (argLane s 0) } := by
  rw [exec, execJccGray, whenIdle_ready hr]
  rfl

end

/-- Settles O54. The lanes of the result are the three rounded sums; without chroma each of them is the luma. -/
theorem colorCommandsConvertOnePixel : Obligations.ColorCommandsConvertOnePixel := by
  intro s hr
  have hy := argLane_zero_toNat s
  have hcb : chroma (argLane s 1) = ((s.arg0.toNat / 2 ^ 8 % 256 : Nat) : Int) - 128 := by rw [chroma, argLane_toNat]
  have hcr : chroma (argLane s 2) = ((s.arg0.toNat / 2 ^ 16 % 256 : Nat) : Int) - 128 := by rw [chroma, argLane_toNat]
  obtain ⟨hR, hG, hB, htop⟩ := packRgb_lanes (colorR (argLane s 0) (argLane s 2))
    (colorG (argLane s 0) (argLane s 1) (argLane s 2)) (colorB (argLane s 0) (argLane s 1))
  refine ⟨⟨_, exec_jccPixel hr, ?_, ?_, ?_, htop, fun hb0 hr0 => ?_⟩, ⟨_, exec_jccGray hr, ?_⟩⟩
  · rw [hR, colorR, colorRound_toNat, hy, hcr]
  · rw [hG, colorG, colorRound_toNat, hy, hcb, hcr]
  · rw [hB, colorB, colorRound_toNat, hy, hcb]
  · rw [colorR_of_neutral (hcr.trans hr0), colorG_of_neutral (hcb.trans hb0) (hcr.trans hr0),
      colorB_of_neutral (hcb.trans hb0), packRgb_gray_toNat, hy]
  · rw [packRgb_gray_toNat, hy]

/-! The exact reference (R353). -/

/-- A channel of the reference, from its exact sum in millionths: to the nearest integer, halves up, clamped (R353). -/
def colorReference (n : Int) : Int := clamp ((2 * n + 1000000) / 2000000) 0 255

/-- Sums less than one code apart give channels at most one code apart. -/
theorem colorRound_near_reference {v n : Int} (h : (1000000 * v - 65536 * n).natAbs < 65536000000) :
    (((colorRound v).toNat : Int) - colorReference n).natAbs ≤ 1 := by
  rw [colorRound_toNat, colorReference]
  refine (natAbs_clamp_sub_le (by decide) _ _).trans ?_
  omega

theorem chroma_mem (c : Byte) : -128 ≤ chroma c ∧ chroma c ≤ 127 := by
  have hc := c.isLt
  unfold chroma
  omega

section

variable (y cb cr : Byte)

theorem colorR_near_reference :
    (((colorR y cr).toNat : Int) - colorReference (1000000 * y.toNat + 1402000 * chroma cr)).natAbs ≤ 1 := by
  have hcr := chroma_mem cr
  refine colorRound_near_reference ?_
  rw [Config.colorFrac]
  omega

theorem colorG_near_reference :
    (((colorG y cb cr).toNat : Int) -
      colorReference (1000000 * y.toNat - 344136 * chroma cb - 714136 * chroma cr)).natAbs ≤ 1 := by
  have hcb := chroma_mem cb
  have hcr := chroma_mem cr
  refine colorRound_near_reference ?_
  rw [Config.colorFrac]
  omega

theorem colorB_near_reference :
    (((colorB y cb).toNat : Int) - colorReference (1000000 * y.toNat + 1772000 * chroma cb)).natAbs ≤ 1 := by
  have hcb := chroma_mem cb
  refine colorRound_near_reference ?_
  rw [Config.colorFrac]
  omega

end

/-- Settles O55. The integer constants are so near the decimal ones that the sums stay less than one code apart. -/
theorem colorConversionIsWithinTolerance : Obligations.ColorConversionIsWithinTolerance :=
  ⟨fun y cb cr => ⟨colorR_near_reference y cr, colorG_near_reference y cb cr, colorB_near_reference y cb⟩,
    by decide, by decide⟩

end Sys2Proof.Machine

/-! SUPPORT. SOF0: the frame header, parsed and checked (48_jpeg_decoder.md R363, R365, R367, R377). -/

namespace Sys2Proof.Machine

variable {s u : State} {k : FailKind}

/-! Failures inside JDEC (60_exceptions.md R403, R405). -/

/-- A failure raised where only the registers of JDEC differ from those of the call's state. -/
theorem fails_raise_jdec (k : FailKind) (s : State) (d : Jdec) : Fails (raise k { s with jdec := d }) s k :=
  ⟨_, rfl, failedFrom_failCall ⟨rfl, rfl, rfl, rfl, rfl, rfl, rfl, rfl⟩ rfl rfl rfl rfl⟩

theorem unlessFail_of_some {checks : List (Bool × FailKind)} (h : firstFail checks = some k) (u : State) (o : Out) :
    unlessFail checks u o = raise k u := by
  rw [unlessFail, h]

theorem unlessFail_of_none {checks : List (Bool × FailKind)} (h : firstFail checks = none) (u : State) (o : Out) :
    unlessFail checks u o = o := by
  rw [unlessFail, h]

/-! The frame header (48_jpeg_decoder.md R365, R367). -/

/-- The components of a frame header, three bytes each. -/
theorem parseFrameComps_eq {comps : List FrameComp} : ∀ {bytes : List Byte}, bytes.length = 3 * comps.length →
    (∀ i, i < comps.length → comps[i]? = some {
      id := bytes.getD (3 * i) 0#8, h := (bytes.getD (3 * i + 1) 0#8).toNat / 16,
      v := (bytes.getD (3 * i + 1) 0#8).toNat % 16, tq := (bytes.getD (3 * i + 2) 0#8).toNat }) →
    parseFrameComps bytes = comps := by
  induction comps with
  | nil =>
    intro bytes hlen _
    rw [List.length_eq_zero_iff.1 hlen]
    rfl
  | cons c comps ih =>
    intro bytes hlen hget
    match bytes, hlen with
    | id :: hv :: tq :: bytes, hlen =>
      have hfirst := hget 0 (Nat.succ_pos _)
      have hrest := ih (bytes := bytes) (by simp only [List.length_cons] at hlen; omega) fun i hi => by
        simpa [Nat.mul_add] using hget (i + 1) (Nat.succ_lt_succ hi)
      rw [parseFrameComps, hrest]
      exact congrArg (· :: comps) (Option.some.inj hfirst).symm

/-- What a frame header latches before its components are parsed. -/
def Jdec.withFrame (d : Jdec) (p hh hl wh wl n : Byte) (len : Nat) : Jdec :=
  { d with pos := d.pos + (len + 6) + 2, precision := p, height := be16 hh hl, width := be16 wh wl, ncomp := n.toNat }


/-- A payload too short for its counts. -/
theorem fails_mSof0_short {payload : List Byte} (h : s.SegmentIs payload) (hlen : payload.length < 6) :
    Fails (exec .mSof0 s) s .malformedContainer := by
  rw [exec, execMSof0, segment_of_is h, Res.run]
  refine Eq.subst (motive := (Fails · s _)) (unlessFail_of_some ?_ _ _).symm (fails_raise_jdec _ s _)
  simp [firstFail, hlen]

section

variable {p hh hl wh wl n : Byte} {rest : List Byte}

theorem fails_mSof0_second (h : s.SegmentIs (p :: hh :: hl :: wh :: wl :: n :: rest)) (hseen : s.jdec.seenSof = true) :
    Fails (exec .mSof0 s) s .malformedContainer := by
  rw [exec, execMSof0, segment_of_is h, Res.run, unlessFail_true hseen]
  exact fails_raise_jdec _ s _

/-- After the segment is read: the counts are checked, then the components (R365). -/
theorem exec_mSof0 (h : s.SegmentIs (p :: hh :: hl :: wh :: wl :: n :: rest)) (hseen : s.jdec.seenSof = false) :
    let d := s.jdec.withFrame p hh hl wh wl n rest.length
    let e := { d with comps := parseFrameComps rest }
    exec .mSof0 s = unlessFail ((rest.length != 3 * n.toNat, .malformedContainer) :: frameCountChecks d) { s with jdec := d }
      (unlessFail (frameCompChecks e) { s with jdec := e }
        (.next { s with jdec := { e with seenSof := true }, point := .jpegMarker })) := by
  intro d e
  rw [exec, execMSof0, segment_of_is h, Res.run, unlessFail_false hseen, unlessFail_false (by simp), unlessFail_nil]
  have hlen : ((p :: hh :: hl :: wh :: wl :: n :: rest).length != 6 + 3 * n.toNat) = (rest.length != 3 * n.toNat) := by
    rw [Bool.eq_iff_iff]
    simp only [List.length_cons, bne_iff_ne, ne_eq]
    omega
  rw [← hlen]
  rfl

/-- The counts are checked in the order of R367. -/
theorem firstFail_frameCountChecks (d : Jdec) : firstFail (frameCountChecks d) =
    if d.precision ≠ 8#8 then some .unsupportedFeature else if d.width = 0 then some .malformedContainer
    else if d.height = 0 then some .unsupportedFeature else if d.ncomp = 0 then some .malformedContainer
    else if d.ncomp = 2 ∨ 3 < d.ncomp then some .unsupportedFeature else none := by
  simp only [frameCountChecks, firstFail, bne_iff_ne, beq_iff_eq, Bool.or_eq_true, decide_eq_true_eq]

theorem fails_mSof0_counts (h : s.SegmentIs (p :: hh :: hl :: wh :: wl :: n :: rest)) (hseen : s.jdec.seenSof = false)
    (hk : firstFail ((rest.length != 3 * n.toNat, .malformedContainer) ::
      frameCountChecks (s.jdec.withFrame p hh hl wh wl n rest.length)) = some k) : Fails (exec .mSof0 s) s k := by
  rw [exec_mSof0 h hseen, unlessFail_of_some hk]
  exact fails_raise_jdec k s _

/-- With the counts in order the components decide. -/
theorem exec_mSof0_comps {comps : List FrameComp} (h : s.SegmentIs (p :: hh :: hl :: wh :: wl :: n :: rest))
    (hseen : s.jdec.seenSof = false) (hcomps : parseFrameComps rest = comps)
    (hk : firstFail ((rest.length != 3 * n.toNat, .malformedContainer) ::
      frameCountChecks (s.jdec.withFrame p hh hl wh wl n rest.length)) = none) :
    exec .mSof0 s =
      unlessFail (frameCompChecks { s.jdec.withFrame p hh hl wh wl n rest.length with comps := comps })
        { s with jdec := { s.jdec.withFrame p hh hl wh wl n rest.length with comps := comps } }
        (.next { s with
          jdec := { s.jdec.withFrame p hh hl wh wl n rest.length with comps := comps, seenSof := true }
          point := .jpegMarker }) := by
  rw [exec_mSof0 h hseen, unlessFail_of_none hk, hcomps]

end

/-! The components (R367, R377). -/

variable {d : Jdec}

theorem frameCompChecks_of_bad (h : ∃ c ∈ d.comps, c.h = 0 ∨ 4 < c.h ∨ c.v = 0 ∨ 4 < c.v ∨ 3 < c.tq) :
    firstFail (frameCompChecks d) = some .malformedContainer := by
  obtain ⟨c, hc, hbad⟩ := h
  by_cases hfactor : (d.comps.any fun c => badFactor c.h || badFactor c.v) = true
  · rw [frameCompChecks, firstFail, if_pos hfactor]
  · have htq : 3 < c.tq := by
      by_contra htq
      refine hfactor (List.any_eq_true.2 ⟨c, hc, ?_⟩)
      simp only [badFactor, Bool.or_eq_true, beq_iff_eq, decide_eq_true_eq]
      omega
    rw [frameCompChecks, firstFail, if_neg hfactor, firstFail,
      if_pos (List.any_eq_true.2 ⟨c, hc, decide_eq_true htq⟩)]

/-- With factors and table ids in range, the ids and the factors' divisibility decide. -/
theorem frameCompChecks_of_fits (h : ∀ c ∈ d.comps, c.h ≠ 0 ∧ c.h ≤ 4 ∧ c.v ≠ 0 ∧ c.v ≤ 4 ∧ c.tq ≤ 3) :
    firstFail (frameCompChecks d) = if ¬ (d.comps.map (·.id)).Nodup then some .malformedContainer
      else if d.ncomp = 3 ∧ ¬ ∀ c ∈ d.comps, c.h ∣ maxH d ∧ c.v ∣ maxV d then some .unsupportedFeature else none := by
  have hfactor : (d.comps.any fun c => badFactor c.h || badFactor c.v) = false := by
    refine List.any_eq_false.2 fun c hc => ?_
    have := h c hc
    simp only [badFactor, Bool.or_eq_true, beq_iff_eq, decide_eq_true_eq]
    omega
  have htq : (d.comps.any fun c => decide (3 < c.tq)) = false := by
    refine List.any_eq_false.2 fun c hc => ?_
    have := h c hc
    simp only [decide_eq_true_eq]
    omega
  have hids : hasRepeat (d.comps.map (·.id)) = true ↔ ¬ (d.comps.map (·.id)).Nodup := by
    rw [← hasRepeat_eq_false_iff, Bool.not_eq_false]
  have hdivides : (d.ncomp == 3 && d.comps.any fun c => maxH d % c.h != 0 || maxV d % c.v != 0) = true ↔
      d.ncomp = 3 ∧ ¬ ∀ c ∈ d.comps, c.h ∣ maxH d ∧ c.v ∣ maxV d := by
    simp only [Bool.and_eq_true, beq_iff_eq, List.any_eq_true, Bool.or_eq_true, bne_iff_ne, Nat.dvd_iff_mod_eq_zero]
    push Not
    simp only [imp_iff_not_or]
  rw [frameCompChecks, firstFail_cons_false hfactor, firstFail_cons_false htq, firstFail, firstFail, firstFail]
  simp only [hids, hdivides]

/-- A list read by its indexes. -/
theorem map_range_getD {α β : Type} (l : List α) (f : α → β) (a : α) :
    (List.range l.length).map (fun i => f (l.getD i a)) = l.map f := by
  refine List.ext_getElem (by simp) fun i hi hi' => ?_
  have hlt : i < l.length := by simpa using hi'
  rw [List.getElem_map, List.getElem_map, List.getElem_range, getD_of_lt hlt]

/-- The largest factors of a frame of three components (R377). -/
theorem maxH_of_three (h : d.ncomp = 3) (hlen : d.comps.length = 3) : maxH d = (d.comps.map (·.h)).foldl max 0 := by
  have hfactor : factorH d = fun i => (frameComp d i).h := funext fun i => if_neg (by omega)
  rw [maxH, maxOver, hfactor, h, ← hlen]
  exact congrArg (List.foldl max 0) (map_range_getD d.comps (·.h) _)

theorem maxV_of_three (h : d.ncomp = 3) (hlen : d.comps.length = 3) : maxV d = (d.comps.map (·.v)).foldl max 0 := by
  have hfactor : factorV d = fun i => (frameComp d i).v := funext fun i => if_neg (by omega)
  rw [maxV, maxOver, hfactor, h, ← hlen]
  exact congrArg (List.foldl max 0) (map_range_getD d.comps (·.v) _)


/-- Settles O57. The checks are made one after the other, the counts before the components are parsed. -/
theorem frameHeaderIsParsedAndChecked : Obligations.FrameHeaderIsParsedAndChecked := by
  refine ⟨fun s payload => fails_mSof0_short, ?_⟩
  intro s p hh hl wh wl n rest comps hseg h w
  refine ⟨fun hbad => ?_, fun hseen hlen => ?_⟩
  · by_cases hseen : s.jdec.seenSof = true
    · exact fails_mSof0_second hseg hseen
    · refine fails_mSof0_counts hseg (Bool.eq_false_iff.2 hseen) (if_pos ?_)
      exact bne_iff_ne.2 (hbad.resolve_left hseen)
  have hchecks : firstFail ((rest.length != 3 * n.toNat, .malformedContainer) ::
      frameCountChecks (s.jdec.withFrame p hh hl wh wl n rest.length)) =
      if p ≠ 8#8 then some .unsupportedFeature else if w = 0 then some .malformedContainer
      else if h = 0 then some .unsupportedFeature else if n.toNat = 0 then some .malformedContainer
      else if n.toNat = 2 ∨ 3 < n.toNat then some .unsupportedFeature else none :=
    (firstFail_cons_false (bne_eq_false_iff_eq.2 hlen) _ _).trans (firstFail_frameCountChecks _)
  have fails {k : FailKind} (hk : _ = some k) : Fails (exec .mSof0 s) s k :=
    fails_mSof0_counts hseg hseen (hchecks.trans hk)
  refine ⟨fun hp => ?_, fun hp hw0 => ?_, fun hp hw0 hh0 => ?_, fun hp hw0 hh0 hn => ?_, fun hp hw0 hh0 hn => ?_,
    fun hp hw0 hh0 hn hcount hget => ?_⟩
  · exact fails (if_pos hp)
  · exact fails (by rw [if_neg (not_not_intro hp), if_pos hw0])
  · exact fails (by rw [if_neg (not_not_intro hp), if_neg hw0, if_pos hh0])
  · have hn' : n.toNat = 0 := congrArg BitVec.toNat hn
    exact fails (by rw [if_neg (not_not_intro hp), if_neg hw0, if_neg hh0, if_pos hn'])
  · have hn' : n.toNat = 2 ∨ 3 < n.toNat := hn.imp_left (congrArg BitVec.toNat)
    exact fails (by rw [if_neg (not_not_intro hp), if_neg hw0, if_neg hh0, if_neg (by omega), if_pos hn'])
  · intro maxOf
    have hn' : n.toNat = 1 ∨ n.toNat = 3 := hn.imp (congrArg BitVec.toNat) (congrArg BitVec.toNat)
    have hexec := exec_mSof0_comps hseg hseen (parseFrameComps_eq (hlen.trans (congrArg _ hcount.symm)) (hcount ▸ hget))
      (hchecks.trans (by rw [if_neg (not_not_intro hp), if_neg hw0, if_neg hh0, if_neg (by omega), if_neg (by omega)]))
    refine ⟨fun hbad => ?_, fun hfits => ?_⟩
    · rw [hexec, unlessFail_of_some (frameCompChecks_of_bad hbad)]
      exact fails_raise_jdec _ s _
    have hcomps := frameCompChecks_of_fits (d := { s.jdec.withFrame p hh hl wh wl n rest.length with comps := comps }) hfits
    have hmax (h3 : n.toNat = 3) :
        maxH { s.jdec.withFrame p hh hl wh wl n rest.length with comps := comps } = maxOf (·.h) ∧
          maxV { s.jdec.withFrame p hh hl wh wl n rest.length with comps := comps } = maxOf (·.v) :=
      ⟨maxH_of_three h3 (hcount.trans h3), maxV_of_three h3 (hcount.trans h3)⟩
    refine ⟨fun hids => ?_, fun hids => ?_⟩
    · rw [hexec, unlessFail_of_some (hcomps.trans (if_pos hids))]
      exact fails_raise_jdec _ s _
    rw [if_neg (not_not_intro hids)] at hcomps
    refine ⟨fun h3 hdivides => ?_, fun hdivides => ?_⟩
    · obtain ⟨hH, hV⟩ := hmax (congrArg BitVec.toNat h3)
      rw [hH, hV] at hcomps
      rw [hexec, unlessFail_of_some (hcomps.trans (if_pos ⟨congrArg BitVec.toNat h3, hdivides⟩))]
      exact fails_raise_jdec _ s _
    · rw [hexec, unlessFail_of_none (hcomps.trans (if_neg fun ⟨h3, hnot⟩ => ?_))]
      · rfl
      · obtain ⟨hH, hV⟩ := hmax h3
        rw [hH, hV] at hnot
        refine hdivides.elim (fun h1 => ?_) hnot
        rw [h1] at h3
        cases h3

end Sys2Proof.Machine

/-! SUPPORT. SOS: the scan header and the start of the scan (48_jpeg_decoder.md R363, R373 to R376, R378). -/

namespace Sys2Proof.Machine

variable {s u : State} {k : FailKind}

/-- The components of a scan header, two bytes each. -/
theorem parseScanComps_eq {comps : List ScanComp} : ∀ {bytes : List Byte}, 2 * comps.length ≤ bytes.length →
    (∀ j, j < comps.length → comps[j]? = some {
      cs := bytes.getD (2 * j) 0#8, td := (bytes.getD (2 * j + 1) 0#8).toNat / 16,
      ta := (bytes.getD (2 * j + 1) 0#8).toNat % 16 }) →
    parseScanComps comps.length bytes = comps := by
  induction comps with
  | nil =>
    intro bytes _ _
    rfl
  | cons c comps ih =>
    intro bytes hlen hget
    match bytes, hlen with
    | cs :: tt :: bytes, hlen =>
      have hfirst := hget 0 (Nat.succ_pos _)
      have hrest := ih (bytes := bytes) (by simp only [List.length_cons] at hlen; omega) fun j hj => by
        simpa [Nat.mul_add] using hget (j + 1) (Nat.succ_lt_succ hj)
      rw [List.length_cons, parseScanComps, hrest]
      exact congrArg (· :: comps) (Option.some.inj hfirst).symm

theorem nibbles_eq_zero_iff (b : Byte) : highNibble b = 0 ∧ lowNibble b = 0 ↔ b = 0#8 := by
  rw [← BitVec.toNat_inj, highNibble, lowNibble]
  show _ ↔ b.toNat = 0
  omega

/-- What a scan header of `1 + rest.length` bytes latches. -/
def State.withScan (s : State) (n : Byte) (rest : List Byte) (comps : List ScanComp) : State :=
  { s with jdec := { s.jdec with
    pos := s.jdec.pos + (rest.length + 1) + 2, ns := n.toNat, scanComps := comps, ss := (rest.getD (2 * n.toNat) 0#8).toNat,
    se := (rest.getD (2 * n.toNat + 1) 0#8).toNat, ah := highNibble (rest.getD (2 * n.toNat + 2) 0#8),
    al := lowNibble (rest.getD (2 * n.toNat + 2) 0#8) } }

/-- The scan components match those of the frame, and name tables that there are (R373). -/
def Jdec.ScanMatches (d : Jdec) : Prop :=
  ∀ j, j < d.ns → (scanComp d j).cs = (frameComp d j).id ∧ (scanComp d j).td ≤ 3 ∧ (scanComp d j).ta ≤ 3

/-- The tables of the scan's components were defined (R376). -/
def State.ScanTablesReady (s : State) : Prop :=
  ∀ j, j < s.jdec.ns → quantDefined s (frameComp s.jdec j).tq = true ∧ dcValid s (scanComp s.jdec j).td = true ∧
    acValid s (scanComp s.jdec j).ta = true

theorem scanCompsMatch_iff (d : Jdec) : scanCompsMatch d = true ↔ d.ScanMatches := by
  simp only [scanCompsMatch, Jdec.ScanMatches, List.all_eq_true, List.mem_range, Bool.and_eq_true, beq_iff_eq,
    decide_eq_true_eq, and_assoc]

theorem tablesReady_iff (s : State) : tablesReady s = true ↔ s.ScanTablesReady := by
  simp only [tablesReady, State.ScanTablesReady, List.all_eq_true, List.mem_range, Bool.and_eq_true, and_assoc]

section

variable {n : Byte} {rest : List Byte} {comps : List ScanComp}

/-- What the first two tests of a scan header, and one on the length, decide (R373). -/
theorem fails_mSos_early {payload : List Byte} (h : s.SegmentIs payload)
    (hk : firstFail [(!s.jdec.seenSof, .malformedContainer), (s.jdec.seenSos, .unsupportedFeature),
      (payload.length == 0, .malformedContainer)] = some k) : Fails (exec .mSos s) s k := by
  rw [exec, execMSos, segment_of_is h, Res.run, unlessFail_of_some hk]
  exact fails_raise_jdec k s _

/-- The tests on what the header latched, in the order of R373 to R376. -/
def scanHeaderChecks (n : Byte) (rest : List Byte) (u : State) : List (Bool × FailKind) :=
  [(rest.length != 3 + 2 * n.toNat, .malformedContainer), (n.toNat != u.jdec.ncomp, .unsupportedFeature),
    (!scanCompsMatch u.jdec, .malformedContainer),
    (u.jdec.ss != 0 || u.jdec.se != 63 || u.jdec.ah != 0 || u.jdec.al != 0, .unsupportedFeature),
    (!tablesReady u, .invalidTable)]

theorem exec_mSos (h : s.SegmentIs (n :: rest)) (hsof : s.jdec.seenSof = true) (hsos : s.jdec.seenSos = false)
    (hcomps : parseScanComps n.toNat rest = comps) : exec .mSos s =
    unlessFail (scanHeaderChecks n rest (s.withScan n rest comps)) (s.withScan n rest comps)
      (.next (beginScan (s.withScan n rest comps))) := by
  have hlen : ((n :: rest).length != 4 + 2 * n.toNat) = (rest.length != 3 + 2 * n.toNat) := by
    rw [Bool.eq_iff_iff]
    simp only [List.length_cons, bne_iff_ne, ne_eq]
    omega
  rw [exec, execMSos, segment_of_is h, Res.run, unlessFail_false (by simp [hsof]), unlessFail_false hsos,
    unlessFail_false (by simp), unlessFail_nil, scanHeaderChecks, ← hlen]
  have hheader : scanHeader { s.jdec with pos := s.jdec.pos + (n :: rest).length + 2 } (n :: rest) = (s.withScan n rest comps).jdec := by
    subst hcomps
    simp [scanHeader, State.withScan, Nat.add_comm 1]
  simp only [hheader]
  rfl

theorem fails_mSos (h : s.SegmentIs (n :: rest)) (hsof : s.jdec.seenSof = true) (hsos : s.jdec.seenSos = false)
    (hk : firstFail (scanHeaderChecks n rest (s.withScan n rest (parseScanComps n.toNat rest))) = some k) :
    Fails (exec .mSos s) s k := by
  rw [exec_mSos h hsof hsos rfl, unlessFail_of_some hk]
  exact fails_raise_jdec k s _

/-- The latched spectral selection and approximation are those of a sequential scan (R375). -/
theorem spectral_iff (ss se al : Byte) :
    (ss.toNat != 0 || se.toNat != 63 || highNibble al != 0 || lowNibble al != 0) = true ↔
      ¬ (ss = 0#8 ∧ se = 63#8 ∧ al = 0#8) := by
  rw [← nibbles_eq_zero_iff al, ← BitVec.toNat_inj, ← BitVec.toNat_inj]
  simp only [Bool.or_eq_true, bne_iff_ne]
  show _ ↔ ¬ (ss.toNat = 0 ∧ se.toNat = 63 ∧ _)
  omega

/-- With the length and the number of components in order, the last three tests decide. -/
theorem firstFail_scanHeaderChecks (hlen : rest.length = 3 + 2 * n.toNat) (hns : n.toNat = u.jdec.ncomp) :
    firstFail (scanHeaderChecks n rest u) = if !scanCompsMatch u.jdec then some .malformedContainer
      else if u.jdec.ss != 0 || u.jdec.se != 63 || u.jdec.ah != 0 || u.jdec.al != 0 then some .unsupportedFeature
      else if !tablesReady u then some .invalidTable else none := by
  rw [scanHeaderChecks, firstFail_cons_false (bne_eq_false_iff_eq.2 hlen), firstFail_cons_false (bne_eq_false_iff_eq.2 hns)]
  rfl

/-- An accepted header starts the scan at its first block (R378). -/
theorem beginScan_withScan (hss : rest.getD (2 * n.toNat) 0#8 = 0#8) (hse : rest.getD (2 * n.toNat + 1) 0#8 = 63#8)
    (hal : rest.getD (2 * n.toNat + 2) 0#8 = 0#8) : beginScan (s.withScan n rest comps) = { s with
      jdec := { s.jdec with
        pos := s.jdec.pos + (rest.length + 1) + 2, ns := n.toNat, scanComps := comps, ss := 0, se := 63, ah := 0, al := 0,
        mcuLeft := s.jdec.restartInterval - 1, rstNext := 0 }
      pred := [0, 0, 0], jbr := { pos := s.jdec.pos + (rest.length + 1) + 2, acc := 0#8, cnt := 0 }, jbrLive := true
      coef := List.replicate 64 0, point := .jpegDc
      jc := {
        c := 0, td := (comps.getD 0 { cs := 0#8, td := 0, ta := 0 }).td, ta := (comps.getD 0 { cs := 0#8, td := 0, ta := 0 }).ta
        k := 0, mx := 0, my := 0, bx := 0, by_ := 0 } } := by
  rw [beginScan_eq]
  simp only [State.withScan, hss, hse, hal]
  rfl

end

/-- Settles O59. The tests are made one after the other, those on the frame and the length before the header is latched. -/
theorem scanHeaderStartsTheScan : Obligations.ScanHeaderStartsTheScan := by
  refine ⟨fun s hseg => ⟨fun hsof hsos => ?_, fun hseen => ?_⟩, ?_⟩
  · exact fails_mSos_early hseg (by simp [firstFail, hsof, hsos])
  · exact fails_mSos_early hseg (by rcases hseen with h | h <;> simp [firstFail, h])
  intro s n rest comps payload hseg
  refine ⟨fun hsof => ?_, fun hsof hsos => ?_, fun hsof hsos => ⟨fun hlen => ?_, fun hlen hns => ?_, ?_⟩⟩
  · exact fails_mSos_early hseg (by simp [firstFail, hsof])
  · exact fails_mSos_early hseg (by simp [firstFail, hsof, hsos])
  · exact fails_mSos hseg hsof hsos (if_pos (bne_iff_ne.2 hlen))
  · refine fails_mSos hseg hsof hsos ((firstFail_cons_false (bne_eq_false_iff_eq.2 hlen) _ _).trans (if_pos ?_))
    exact bne_iff_ne.2 hns
  intro hlen hns hcount hget spectral matching ready
  have hcomps : parseScanComps n.toNat rest = comps := by
    rw [← hcount]
    exact parseScanComps_eq (by omega) (hcount ▸ hget)
  have hchecks := firstFail_scanHeaderChecks (u := s.withScan n rest comps) hlen hns
  have hmatching : (!scanCompsMatch (s.withScan n rest comps).jdec) = true ↔ ¬ matching := by
    rw [Bool.not_eq_true', ← Bool.not_eq_true, scanCompsMatch_iff]
    rfl
  have hspectral : ((s.withScan n rest comps).jdec.ss != 0 || (s.withScan n rest comps).jdec.se != 63 ||
      (s.withScan n rest comps).jdec.ah != 0 || (s.withScan n rest comps).jdec.al != 0) = true ↔ ¬ spectral :=
    spectral_iff _ _ _
  have hready : (!tablesReady (s.withScan n rest comps)) = true ↔ ¬ ready := by
    rw [Bool.not_eq_true', ← Bool.not_eq_true, tablesReady_iff]
    rfl
  have fails {k : FailKind} (hk : firstFail _ = some k) : Fails (exec .mSos s) s k :=
    fails_mSos hseg hsof hsos (hcomps.symm ▸ hk)
  refine ⟨fun hm => fails ?_, fun hm hs => fails ?_, fun hm hs hr => fails ?_, fun hm hs hr => ?_⟩
  · rw [hchecks, if_pos (hmatching.2 hm)]
  · rw [hchecks, if_neg (mt hmatching.1 (not_not_intro hm)), if_pos (hspectral.2 hs)]
  · rw [hchecks, if_neg (mt hmatching.1 (not_not_intro hm)), if_neg (mt hspectral.1 (not_not_intro hs)),
      if_pos (hready.2 hr)]
  · rw [if_neg (mt hmatching.1 (not_not_intro hm)), if_neg (mt hspectral.1 (not_not_intro hs)),
      if_neg (mt hready.1 (not_not_intro hr))] at hchecks
    rw [exec_mSos hseg hsof hsos hcomps, unlessFail_of_none hchecks, beginScan_withScan hs.1 hs.2.1 hs.2.2]
    rfl

end Sys2Proof.Machine

/-! SUPPORT. DQT and DHT: the tables of a payload, one after the other (48_jpeg_decoder.md R363, R368, R370). -/

namespace Sys2Proof.Machine

variable {s u : State} {k : FailKind}

/-! The quantization tables (48_jpeg_decoder.md R368). -/

/-- The payload of a run of tables. -/
def quantTablesBytes (tables : List (Nat × Bool × List Nat)) : List Byte :=
  tables.flatMap fun x => quantTableBytes x.1 x.2.1 x.2.2

/-- The state with a run of tables loaded, a later one over an earlier one. -/
def State.withQuants (s : State) (tables : List (Nat × Bool × List Nat)) : State :=
  tables.foldl (fun u x => u.withQuant x.1 x.2.1 x.2.2) s

/-- Loading tables writes their registers only. -/
theorem withQuants_frame (s : State) (tables : List (Nat × Bool × List Nat)) :
    ∃ a b c, s.withQuants tables = { s with qt := a, qtPrec := b, qtDef := c } := by
  induction tables generalizing s with
  | nil => exact ⟨s.qt, s.qtPrec, s.qtDef, rfl⟩
  | cons x tables ih =>
    obtain ⟨a, b, c, h⟩ := ih (s.withQuant x.1 x.2.1 x.2.2)
    exact ⟨a, b, c, h⟩

theorem nextMarker_withQuants (s : State) (tables : List (Nat × Bool × List Nat)) :
    nextMarker (s.withQuants tables) = (nextMarker s).withQuants tables :=
  (List.foldl_hom nextMarker fun _ _ => rfl).symm

/-- A head byte of two nibbles. -/
theorem nibbles_of_head (b : Bool) {t : Nat} (ht : t ≤ 3) :
    highNibble (BitVec.ofNat 8 (16 * b.toNat + t)) = b.toNat ∧ lowNibble (BitVec.ofNat 8 (16 * b.toNat + t)) = t := by
  have hb := Bool.toNat_le b
  rw [highNibble, lowNibble, BitVec.toNat_ofNat]
  omega

/-- The table at the head of a payload is loaded (R368, R330). -/
theorem loadQuantTables_cons {t : Nat} {wide : Bool} {entries : List Nat} (ht : t ≤ 3) (hlen : entries.length = 64)
    (hfit : ∀ q ∈ entries, q < (if wide then 65536 else 256)) (rest : List Byte) (fuel : Nat) (s : State) :
    loadQuantTables (fuel + 1) (quantTableBytes t wide entries ++ rest) s =
      (loadQuant t wide entries s).bind fun _ u => loadQuantTables fuel rest u := by
  obtain ⟨hhigh, hlow⟩ := nibbles_of_head wide ht
  have hwide : (wide.toNat == 1) = wide := by cases wide <;> rfl
  have hentries := quantEntries_of_bytes wide entries hfit
  have hsize : (if wide then 128 else 64) = (entries.flatMap fun q =>
      if wide then [BitVec.ofNat 8 (q / 256), BitVec.ofNat 8 q] else [BitVec.ofNat 8 q]).length := by
    rw [quantTableBytes_length, hlen]
    cases wide <;> rfl
  have hok : ¬ (1 < wide.toNat ∨ 3 < t) := by
    have := Bool.toNat_le wide
    omega
  rw [quantTableBytes, List.cons_append, loadQuantTables]
  simp only [hhigh, hlow, hwide, hsize, List.take_left, List.drop_left, hentries]
  rw [if_neg]
  rw [← or_assoc, not_or]
  exact ⟨hok, by rw [List.length_append]; omega⟩

/-- A run of good tables is loaded, table by table. -/
theorem loadQuantTables_append {tables : List (Nat × Bool × List Nat)} (h : ∀ x ∈ tables, QuantTableOk x.1 x.2.1 x.2.2)
    (tail : List Byte) (fuel : Nat) (s : State) :
    loadQuantTables (tables.length + fuel) (quantTablesBytes tables ++ tail) s =
      loadQuantTables fuel tail (s.withQuants tables) := by
  induction tables generalizing s with
  | nil => rw [List.length_nil, Nat.zero_add]; rfl
  | cons x tables ih =>
    rw [quantTablesBytes, List.flatMap_cons, List.append_assoc, List.length_cons, Nat.succ_add,
      loadQuantTables_step x.1 x.2.1 x.2.2 (h x List.mem_cons_self)]
    exact ih (fun y hy => h y (List.mem_cons_of_mem x hy)) _

theorem length_le_quantTablesBytes (tables : List (Nat × Bool × List Nat)) :
    tables.length ≤ (quantTablesBytes tables).length := by
  induction tables with
  | nil => exact Nat.le_refl 0
  | cons x tables ih =>
    rw [quantTablesBytes, List.flatMap_cons, List.length_append, quantTableBytes, List.length_cons, List.length_cons]
    have : tables.length ≤ (tables.flatMap fun x => quantTableBytes x.1 x.2.1 x.2.2).length := ih
    omega

/-- A DQT segment whose payload begins with good tables goes on with what is left. -/
theorem exec_mDqt {tables : List (Nat × Bool × List Nat)} (h : ∀ x ∈ tables, QuantTableOk x.1 x.2.1 x.2.2)
    {tail : List Byte} (hseg : s.SegmentIs (quantTablesBytes tables ++ tail)) :
    ∃ fuel pos, tail.length ≤ fuel ∧ pos = s.jdec.pos + (quantTablesBytes tables ++ tail).length + 2 ∧
      exec .mDqt s =
      (loadQuantTables fuel tail (State.withQuants { s with jdec := { s.jdec with pos := pos } } tables)).run
        fun _ u => .next (nextMarker u) := by
  obtain ⟨extra, hextra⟩ := Nat.exists_eq_add_of_le (length_le_quantTablesBytes tables)
  refine ⟨extra + tail.length, _, Nat.le_add_left _ _, rfl, ?_⟩
  have hfuel : (quantTablesBytes tables ++ tail).length = tables.length + (extra + tail.length) := by
    rw [List.length_append, hextra, Nat.add_assoc]
  rw [exec, execMDqt, segment_of_is hseg, Res.run, hfuel, loadQuantTables_append h]

/-- A failure raised where only the registers of JDEC, the tables and the note of the call differ from those of the call's
state. -/
theorem failedFrom_tables (k : FailKind) (s : State) (d : Jdec) (qt : List (List Nat)) (qtPrec qtDef : List Bool)
    (r : Option Call) (jdc jac : List Tree) (jhuf : Jhuf) (n : Nat) :
    s.FailedFrom (failCall k { s with
      jdec := d, qt := qt, qtPrec := qtPrec, qtDef := qtDef, running := r, jdc := jdc, jac := jac, jhuf := jhuf, draws := n }) k :=
  failedFrom_failCall ⟨rfl, rfl, rfl, rfl, rfl, rfl, rfl, rfl⟩ rfl rfl rfl rfl

theorem highNibble_le_one_cases {b : Byte} (h : ¬ 1 < b.toNat / 16) : highNibble b = 0 ∨ highNibble b = 1 := by
  rw [highNibble]
  omega

/-- A head byte of no table, or too few bytes after it (R368). -/
theorem loadQuantTables_malformed {pt : Byte} {rest : List Byte}
    (h : 1 < pt.toNat / 16 ∨ 3 < pt.toNat % 16 ∨ rest.length < 64 * (1 + pt.toNat / 16)) (fuel : Nat) (s : State) :
    loadQuantTables (fuel + 1) (pt :: rest) s = .fail .malformedContainer s := by
  rw [loadQuantTables]
  refine if_pos ?_
  by_cases hp : 1 < pt.toNat / 16
  · exact .inl hp
  · refine h.imp_right (Or.imp_right fun hshort => ?_)
    rcases highNibble_le_one_cases hp with hn | hn <;> rw [hn] <;> rw [highNibble] at hn <;> rw [hn] at hshort
    · exact hshort
    · exact hshort

theorem quantTables_load {tables : List (Nat × Bool × List Nat)} (h : ∀ x ∈ tables, QuantTableOk x.1 x.2.1 x.2.2)
    (hseg : s.SegmentIs (quantTablesBytes tables)) :
    exec .mDqt s = .next ((s.pastSegment (quantTablesBytes tables)).withQuants tables) := by
  rw [← List.append_nil (quantTablesBytes tables)] at hseg
  obtain ⟨fuel, pos, -, hpos, hexec⟩ := exec_mDqt h hseg
  have hnil (u : State) : loadQuantTables fuel [] u = .ok () u := by cases fuel <;> rfl
  rw [hexec, hnil, Res.run, nextMarker_withQuants, hpos, List.append_nil]
  rfl

theorem quantTables_malformed {tables : List (Nat × Bool × List Nat)} (h : ∀ x ∈ tables, QuantTableOk x.1 x.2.1 x.2.2)
    {pt : Byte} {rest : List Byte} (hseg : s.SegmentIs (quantTablesBytes tables ++ pt :: rest))
    (hbad : 1 < pt.toNat / 16 ∨ 3 < pt.toNat % 16 ∨ rest.length < 64 * (1 + pt.toNat / 16)) :
    Fails (exec .mDqt s) s .malformedContainer := by
  obtain ⟨fuel, pos, hfuel, -, hexec⟩ := exec_mDqt h hseg
  obtain ⟨fuel, rfl⟩ := Nat.exists_eq_add_of_le' (Nat.le_trans (Nat.le_add_left 1 rest.length) hfuel)
  obtain ⟨qt, qtPrec, qtDef, hframe⟩ := withQuants_frame { s with jdec := { s.jdec with pos := pos } } tables
  rw [hexec, loadQuantTables_malformed hbad, hframe]
  exact ⟨_, rfl, failedFrom_tables ..⟩

/-- The table whose load failed is not defined after the failure of a `JPEG_DECODE` (R405). -/
theorem failCall_qtDef_bad {t : Nat} (ht : t ≤ 3) (hr : u.running = some (.jpeg (some t))) (k : FailKind) :
    (failCall k u).qtDef.getD t true = false := by
  rw [failCall, hr]
  refine (getD_map_range (Nat.lt_succ_of_le ht) (fun i => if some t = some i then false else Config.qtDef u.draws i) true).trans ?_
  exact if_pos rfl

theorem quantTables_zero {tables : List (Nat × Bool × List Nat)} (h : ∀ x ∈ tables, QuantTableOk x.1 x.2.1 x.2.2)
    {t : Nat} {wide : Bool} {entries : List Nat} {tail : List Byte} (ht : t ≤ 3) (hlen : entries.length = 64)
    (hfit : ∀ q ∈ entries, q < (if wide then 65536 else 256)) (hzero : 0 ∈ entries)
    (hseg : s.SegmentIs (quantTablesBytes tables ++ (quantTableBytes t wide entries ++ tail))) :
    ∃ u, exec .mDqt s = .next u ∧ s.FailedFrom u .invalidTable ∧
      (∀ b, s.running = some (.jpeg b) → u.qtDef.getD t true = false) := by
  obtain ⟨fuel, pos, hfuel, -, hexec⟩ := exec_mDqt h hseg
  have hhead : 1 ≤ (quantTableBytes t wide entries ++ tail).length := Nat.succ_pos _
  obtain ⟨fuel, rfl⟩ := Nat.exists_eq_add_of_le' (Nat.le_trans hhead hfuel)
  obtain ⟨qt, qtPrec, qtDef, hframe⟩ := withQuants_frame { s with jdec := { s.jdec with pos := pos } } tables
  rw [hexec, loadQuantTables_cons ht hlen hfit, hframe, loadQuant_of_mem hzero]
  refine ⟨_, rfl, failedFrom_tables .., fun b hb => failCall_qtDef_bad ht ?_ _⟩
  exact congrArg (noteBadTable t) hb

/-! The Huffman tables (R370). -/

/-- The payload of a run of tables. -/
def huffTablesBytes (tables : List (Bool × Nat × List Nat × List Nat)) : List Byte :=
  tables.flatMap fun x => huffTableBytes x.1 x.2.1 x.2.2.1 x.2.2.2

/-- The state with a run of tables built, a later one over an earlier one. -/
def State.withHuffs (s : State) (tables : List (Bool × Nat × List Nat × List Nat)) : State :=
  tables.foldl (fun u x => u.withHuff x.1 x.2.1 x.2.2.1 x.2.2.2) s

/-- Building tables writes their slots, the scratch and the count of draws only. -/
theorem withHuffs_frame (s : State) (tables : List (Bool × Nat × List Nat × List Nat)) :
    ∃ a b c d, s.withHuffs tables = { s with jdc := a, jac := b, jhuf := c, draws := d } := by
  induction tables generalizing s with
  | nil => exact ⟨s.jdc, s.jac, s.jhuf, s.draws, rfl⟩
  | cons x tables ih =>
    obtain ⟨a, b, c, d, h⟩ := ih (s.withHuff x.1 x.2.1 x.2.2.1 x.2.2.2)
    exact ⟨a, b, c, d, h⟩

theorem nextMarker_withHuffs (s : State) (tables : List (Bool × Nat × List Nat × List Nat)) :
    nextMarker (s.withHuffs tables) = (nextMarker s).withHuffs tables :=
  (List.foldl_hom nextMarker fun _ _ => rfl).symm

/-- A run of good tables is built, table by table. -/
theorem loadHuffTables_append {tables : List (Bool × Nat × List Nat × List Nat)}
    (h : ∀ x ∈ tables, HuffTableOk x.2.1 x.2.2.1 x.2.2.2) (tail : List Byte) (fuel : Nat) (s : State) :
    loadHuffTables (tables.length + fuel) (huffTablesBytes tables ++ tail) s =
      loadHuffTables fuel tail (s.withHuffs tables) := by
  induction tables generalizing s with
  | nil => rw [List.length_nil, Nat.zero_add]; rfl
  | cons x tables ih =>
    rw [huffTablesBytes, List.flatMap_cons, List.append_assoc, List.length_cons, Nat.succ_add,
      loadHuffTables_step x.1 x.2.1 x.2.2.1 x.2.2.2 (h x List.mem_cons_self)]
    exact ih (fun y hy => h y (List.mem_cons_of_mem x hy)) _

theorem length_le_huffTablesBytes (tables : List (Bool × Nat × List Nat × List Nat)) :
    tables.length ≤ (huffTablesBytes tables).length := by
  induction tables with
  | nil => exact Nat.le_refl 0
  | cons x tables ih =>
    rw [huffTablesBytes, List.flatMap_cons, List.length_append, huffTableBytes, List.length_cons, List.length_cons]
    have : tables.length ≤ (tables.flatMap fun x => huffTableBytes x.1 x.2.1 x.2.2.1 x.2.2.2).length := ih
    omega

/-- A DHT segment whose payload begins with good tables goes on with what is left. -/
theorem exec_mDht {tables : List (Bool × Nat × List Nat × List Nat)}
    (h : ∀ x ∈ tables, HuffTableOk x.2.1 x.2.2.1 x.2.2.2) {tail : List Byte}
    (hseg : s.SegmentIs (huffTablesBytes tables ++ tail)) :
    ∃ fuel pos, tail.length ≤ fuel ∧ pos = s.jdec.pos + (huffTablesBytes tables ++ tail).length + 2 ∧
      exec .mDht s =
        loadHuffTables fuel tail (State.withHuffs { s with jdec := { s.jdec with pos := pos } } tables) := by
  obtain ⟨extra, hextra⟩ := Nat.exists_eq_add_of_le (length_le_huffTablesBytes tables)
  refine ⟨extra + tail.length, _, Nat.le_add_left _ _, rfl, ?_⟩
  have hfuel : (huffTablesBytes tables ++ tail).length = tables.length + (extra + tail.length) := by
    rw [List.length_append, hextra, Nat.add_assoc]
  rw [exec, execMDht, segment_of_is hseg, Res.run, hfuel, loadHuffTables_append h]

/-- A head byte of no table, too few bytes after it, or too many symbols (R370). -/
theorem loadHuffTables_malformed {tc : Byte} {rest : List Byte}
    (h : 1 < tc.toNat / 16 ∨ 3 < tc.toNat % 16 ∨ rest.length < 16 ∨ 256 < ((rest.take 16).map (·.toNat)).sum ∨
      rest.length < 16 + ((rest.take 16).map (·.toNat)).sum) (fuel : Nat) (s : State) :
    loadHuffTables (fuel + 1) (tc :: rest) s = raise .malformedContainer s := by
  rw [loadHuffTables]
  split
  · rfl
  · rename_i hhead
    refine if_pos ?_
    rw [highNibble, lowNibble] at hhead
    omega

theorem map_toNat_ofNat {l : List Nat} (h : ∀ v ∈ l, v < 256) : (l.map (BitVec.ofNat 8)).map (·.toNat) = l := by
  rw [List.map_map]
  exact (List.map_congr_left fun v hv => Nat.mod_eq_of_lt (h v hv)).trans (List.map_id l)

/-- Counts that are not admitted are refused (R303, U1). -/
theorem loadHuffTables_not_admitted {ac : Bool} {h : Nat} {counts syms : List Nat} (hh : h ≤ 3) (hlen : counts.length = 16)
    (hsyms : syms.length = counts.sum) (hsum : counts.sum ≤ 256) (hfit : ∀ c ∈ counts, c < 256)
    (hadm : jadmitted counts = false) (rest : List Byte) (fuel : Nat) (s : State) :
    loadHuffTables (fuel + 1) (huffTableBytes ac h counts syms ++ rest) s = .refused .lengthsNotAdmitted := by
  obtain ⟨hhigh, hlow⟩ := nibbles_of_head ac hh
  have hcounts : (((counts ++ syms).map (BitVec.ofNat 8) ++ rest).take 16).map (·.toNat) = counts := by
    rw [List.map_append, List.append_assoc, List.take_left' ((List.length_map _).trans hlen), map_toNat_ofNat hfit]
  rw [huffTableBytes, List.cons_append, loadHuffTables]
  simp only [hhigh, hlow, hcounts]
  have hb := Bool.toNat_le ac
  rw [if_neg, if_neg, if_neg (Bool.eq_false_iff.1 hadm)]
  · simp only [List.length_append, List.length_map]
    omega
  · simp only [List.length_append, List.length_map]
    omega

theorem huffTables_load {tables : List (Bool × Nat × List Nat × List Nat)}
    (h : ∀ x ∈ tables, HuffTableOk x.2.1 x.2.2.1 x.2.2.2) (hseg : s.SegmentIs (huffTablesBytes tables)) :
    exec .mDht s = .next ((s.pastSegment (huffTablesBytes tables)).withHuffs tables) := by
  rw [← List.append_nil (huffTablesBytes tables)] at hseg
  obtain ⟨fuel, pos, -, hpos, hexec⟩ := exec_mDht h hseg
  have hnil (u : State) : loadHuffTables fuel [] u = .next (nextMarker u) := by cases fuel <;> rfl
  rw [hexec, hnil, nextMarker_withHuffs, hpos, List.append_nil]
  rfl

theorem huffTables_malformed {tables : List (Bool × Nat × List Nat × List Nat)}
    (h : ∀ x ∈ tables, HuffTableOk x.2.1 x.2.2.1 x.2.2.2) {tc : Byte} {rest : List Byte}
    (hseg : s.SegmentIs (huffTablesBytes tables ++ tc :: rest))
    (hbad : 1 < tc.toNat / 16 ∨ 3 < tc.toNat % 16 ∨ rest.length < 16 ∨ 256 < ((rest.take 16).map (·.toNat)).sum ∨
      rest.length < 16 + ((rest.take 16).map (·.toNat)).sum) : Fails (exec .mDht s) s .malformedContainer := by
  obtain ⟨fuel, pos, hfuel, -, hexec⟩ := exec_mDht h hseg
  obtain ⟨fuel, rfl⟩ := Nat.exists_eq_add_of_le' (Nat.le_trans (Nat.le_add_left 1 rest.length) hfuel)
  obtain ⟨jdc, jac, jhuf, draws, hframe⟩ := withHuffs_frame { s with jdec := { s.jdec with pos := pos } } tables
  rw [hexec, loadHuffTables_malformed hbad, hframe]
  exact ⟨_, rfl, failedFrom_tables ..⟩

theorem huffTables_not_admitted {tables : List (Bool × Nat × List Nat × List Nat)}
    (hok : ∀ x ∈ tables, HuffTableOk x.2.1 x.2.2.1 x.2.2.2) {ac : Bool} {h : Nat} {counts syms : List Nat} {tail : List Byte}
    (hh : h ≤ 3) (hlen : counts.length = 16) (hsyms : syms.length = counts.sum) (hsum : counts.sum ≤ 256)
    (hfit : ∀ c ∈ counts, c < 256) (hadm : jadmitted counts = false)
    (hseg : s.SegmentIs (huffTablesBytes tables ++ (huffTableBytes ac h counts syms ++ tail))) :
    exec .mDht s = .refused .lengthsNotAdmitted := by
  obtain ⟨fuel, pos, hfuel, -, hexec⟩ := exec_mDht hok hseg
  have hhead : 1 ≤ (huffTableBytes ac h counts syms ++ tail).length := Nat.succ_pos _
  obtain ⟨fuel, rfl⟩ := Nat.exists_eq_add_of_le' (Nat.le_trans hhead hfuel)
  rw [hexec, loadHuffTables_not_admitted hh hlen hsyms hsum hfit hadm]

/-- Settles O58. The good tables at the head of a payload are loaded one by one; what follows them decides. -/
theorem tableSegmentsLoadEveryTable : Obligations.TableSegmentsLoadEveryTable := by
  refine fun s => ⟨fun tables hok => ⟨quantTables_load hok, fun pt rest => quantTables_malformed hok, ?_⟩,
    fun tables hok => ⟨huffTables_load hok, fun tc rest => huffTables_malformed hok, ?_⟩⟩
  · intro t wide entries tail ht hlen hfit hzero hseg
    rw [List.append_assoc] at hseg
    exact quantTables_zero hok ht hlen hfit hzero hseg
  · intro ac h counts syms tail hh hlen hsyms hsum hfit hadm hseg
    rw [List.append_assoc] at hseg
    exact huffTables_not_admitted hok hh hlen hsyms hsum hfit hadm hseg

end Sys2Proof.Machine

/-! SUPPORT. The other markers of a JPEG file, each with its exact outcome (48_jpeg_decoder.md R361, R363, R364, R369, R371,
R372, R384, R385). -/

namespace Sys2Proof.Machine

variable {s u : State} {k : FailKind}

/-! SOI, EOI and the restart markers (48_jpeg_decoder.md R361, R371, R372, R384, R385). -/

theorem exec_mSoi (h : s.jdec.seenSoi = false) :
    exec .mSoi s = .next { s with jdec := { s.jdec with pos := 2, seenSoi := true }, point := .jpegMarker } :=
  if_neg (Bool.eq_false_iff.1 h)

theorem fails_mSoi (h : s.jdec.seenSoi = true) : Fails (exec .mSoi s) s .malformedContainer := by
  rw [exec, execMSoi, if_pos h]
  exact fails_raise_self _ s

theorem exec_mEoi (h : s.jdec.seenSos = true) : ∃ (b : Br) (j : Jbr), b.Inside (inLength s) ∧ j.Inside (inLength s) ∧
    exec .mEoi s = .next { s.endedJpeg b j with
      jdec := { s.jdec with seenEoi := true }, out := assemble s, resWidth := BitVec.ofNat 32 s.jdec.width
      resHeight := BitVec.ofNat 32 s.jdec.height, resChannels := 3#8
      resLen := resLenOf (s.jdec.width * s.jdec.height * 3) } := by
  obtain ⟨b, j, hb, hj, hend⟩ := endJpeg_eq { s with
    jdec := { s.jdec with seenEoi := true }, out := assemble s, resWidth := BitVec.ofNat 32 s.jdec.width
    resHeight := BitVec.ofNat 32 s.jdec.height, resChannels := 3#8
    resLen := resLenOf (s.jdec.width * s.jdec.height * 3) }
  refine ⟨b, j, hb, hj, ?_⟩
  rw [exec, execMEoi, if_neg (Bool.ne_false_iff.2 h), hend]
  rfl

theorem fails_mEoi (h : s.jdec.seenSos = false) : Fails (exec .mEoi s) s .malformedContainer := by
  rw [exec, execMEoi, if_pos h]
  exact fails_raise_jdec _ s _

/-- A restart renews the counters and empties JBR; the next MCU begins (R384, R385). -/
theorem takeRestart_eq (s : State) : takeRestart s = { s with
    jbr := { pos := s.jbr.pos + 2, acc := 0#8, cnt := 0 }, pred := [0, 0, 0]
    jdec := { s.jdec with rstNext := (s.jdec.rstNext + 1) % 8, mcuLeft := s.jdec.restartInterval - 1 }
    coef := List.replicate 64 0, point := .jpegDc
    jc := { s.jc with
      c := 0, bx := 0, by_ := 0, k := 0, td := (scanComp s.jdec 0).td, ta := (scanComp s.jdec 0).ta } } := by
  have hleft : (if s.jdec.restartInterval = 0 then s.jdec.restartInterval else s.jdec.restartInterval - 1) =
      s.jdec.restartInterval - 1 := by
    split <;> omega
  rw [← hleft]
  rfl

theorem exec_mRst {n : BitVec 3} (hp : s.point = .jpegRestart) (hn : n.toNat = s.jdec.rstNext) :
    exec (.mRst n) s = .next (takeRestart s) :=
  if_pos ⟨hp, hn⟩

theorem fails_mRst {n : BitVec 3} (h : s.point ≠ .jpegRestart ∨ n.toNat ≠ s.jdec.rstNext) :
    Fails (exec (.mRst n) s) s .malformedContainer := by
  rw [exec, execMRst, if_neg fun ⟨hp, hn⟩ => h.elim (absurd hp) (absurd hn)]
  exact fails_raise_self _ s

/-- A failure of the fetch of a restart marker, its cursor emptied (R384). -/
theorem fails_step_restart (hp : s.point = .jpegRestart) (hfetch : fetch s = .fail k { s with jbr := { s.jbr with cnt := 0 } }) :
    Fails (step s) s k := by
  rw [step_in_call (hp ▸ nofun), hfetch]
  exact ⟨_, rfl, failedFrom_failCall ⟨rfl, rfl, rfl, rfl, rfl, rfl, rfl, rfl⟩ rfl rfl rfl rfl⟩

theorem fails_restart_short (hp : s.point = .jpegRestart) (h : inLength s < s.jbr.pos + 2) :
    Fails (step s) s .truncatedStream := by
  refine fails_step_restart hp ?_
  rw [fetch_jpegRestart hp]
  exact if_pos (show inLength s - s.jbr.pos < 2 by omega)

theorem fails_restart_other (hp : s.point = .jpegRestart) (h : s.jbr.pos + 2 ≤ inLength s)
    (hbytes : inByte s s.jbr.pos ≠ 0xFF#8 ∨ (inByte s (s.jbr.pos + 1)).toNat ≠ 0xD0 + s.jdec.rstNext) :
    Fails (step s) s .malformedContainer := by
  refine fails_step_restart hp ((fetch_restart_of_le hp h).trans (if_neg ?_))
  exact fun ⟨hff, hrst⟩ => hbytes.elim (absurd hff) (absurd hrst)

/-! Segments (R363, R364, R369). -/

theorem exec_mOther (code : Byte) {payload : List Byte} (h : s.SegmentIs payload) :
    exec (.mOther code) s = .next (s.pastSegment payload) := by
  rw [exec, execMOther, segment_of_is h]
  rfl

theorem exec_mDri {hi lo : Byte} (h : s.SegmentIs [hi, lo]) : exec .mDri s = .next { s.pastSegment [hi, lo] with
    jdec := { s.jdec with pos := s.jdec.pos + 4, restartInterval := be16 hi lo } } := by
  rw [exec, execMDri, segment_of_is h]
  rfl

theorem fails_mDri {payload : List Byte} (hlen : payload.length ≠ 2) (h : s.SegmentIs payload) :
    Fails (exec .mDri s) s .malformedContainer := by
  rw [exec, execMDri, segment_of_is h, Res.run, unlessFail_true (bne_iff_ne.2 hlen)]
  exact fails_raise_jdec _ s _

/-- Every marker with a payload reads its segment first. -/
theorem fails_of_segment {code : Byte} {i : Instr} (hi : i ∈ [Instr.mOther code, .mDri, .mSof0, .mDqt, .mDht, .mSos])
    (h : segment s = .fail k s) : Fails (exec i s) s k := by
  have hrun {f : List Byte → State → Out} : Fails ((segment s).run f) s k := by
    rw [h]
    exact fails_raise_self k s
  simp only [List.mem_cons, List.not_mem_nil, or_false] at hi
  rcases hi with rfl | rfl | rfl | rfl | rfl | rfl <;> exact hrun

theorem segment_short (h : inLength s < s.jdec.pos + 2) : segment s = .fail .truncatedStream s :=
  if_pos (show inLength s - s.jdec.pos < 2 by omega)

theorem segment_bad_length (h : s.jdec.pos + 2 ≤ inLength s)
    (hl : be16 (inByte s s.jdec.pos) (inByte s (s.jdec.pos + 1)) < 2) : segment s = .fail .malformedContainer s :=
  (if_neg (show ¬ inLength s - s.jdec.pos < 2 by omega)).trans (if_pos hl)

theorem segment_past_end (h : s.jdec.pos + 2 ≤ inLength s)
    (hl : 2 ≤ be16 (inByte s s.jdec.pos) (inByte s (s.jdec.pos + 1)))
    (hend : inLength s < s.jdec.pos + be16 (inByte s s.jdec.pos) (inByte s (s.jdec.pos + 1))) :
    segment s = .fail .truncatedStream s :=
  (if_neg (show ¬ inLength s - s.jdec.pos < 2 by omega)).trans <| (if_neg (Nat.not_lt.2 hl)).trans <|
    if_pos (show inLength s - s.jdec.pos < be16 _ _ by omega)

/-- Settles O56. -/
theorem jpegMarkersActAsTheirRulesSay : Obligations.JpegMarkersActAsTheirRulesSay := by
  refine fun s => ⟨exec_mSoi, fails_mSoi, fun code payload => exec_mOther code, fun hi lo => exec_mDri,
    fun payload => fails_mDri, fun h => ?_, fails_mEoi, fun n => ⟨fun hp hn => ?_, fails_mRst⟩,
    fun hp => ⟨fails_restart_short hp, fails_restart_other hp⟩, fun code i hi => ?_⟩
  · exact exec_mEoi h
  · rw [exec_mRst hp hn, takeRestart_eq]
  · exact ⟨fun h => fails_of_segment hi (segment_short h), fun h hl => fails_of_segment hi (segment_bad_length h hl),
      fun h hl hend => fails_of_segment hi (segment_past_end h hl hend)⟩

end Sys2Proof.Machine

/-! SUPPORT. The end of a block of a scan: its place in the plane, and where the scan goes on (48_jpeg_decoder.md R377 to
R386). -/

namespace Sys2Proof.Machine

variable {s u : State}

/-! The geometry of a scan (48_jpeg_decoder.md R377). -/

section

variable {d : Jdec}

theorem maxOver_three (f : Nat → Nat) : maxOver f 3 = max (f 0) (max (f 1) (f 2)) := by
  show max (max (max 0 (f 0)) (f 1)) (f 2) = _
  omega

/-- One component: its factors count as 1, and an MCU is one block. -/
theorem geometry_of_one (h : d.ncomp = 1) (i : Nat) : factorH d i = 1 ∧ factorV d i = 1 ∧
    mcusAcross d = (d.width + 7) / 8 ∧ mcusDown d = (d.height + 7) / 8 := by
  have hH : factorH d = fun _ => 1 := funext fun _ => if_pos h
  have hV : factorV d = fun _ => 1 := funext fun _ => if_pos h
  refine ⟨congrFun hH i, congrFun hV i, ?_, ?_⟩
  · rw [mcusAcross, maxH, hH, h]
    rfl
  · rw [mcusDown, maxV, hV, h]
    rfl

theorem geometry_of_three (h : d.ncomp = 3) (i : Nat) : factorH d i = (frameComp d i).h ∧ factorV d i = (frameComp d i).v ∧
    maxH d = max (frameComp d 0).h (max (frameComp d 1).h (frameComp d 2).h) ∧
    maxV d = max (frameComp d 0).v (max (frameComp d 1).v (frameComp d 2).v) := by
  have hH : factorH d = fun i => (frameComp d i).h := funext fun _ => if_neg (by omega)
  have hV : factorV d = fun i => (frameComp d i).v := funext fun _ => if_neg (by omega)
  exact ⟨congrFun hH i, congrFun hV i, by rw [maxH, hH, h, maxOver_three], by rw [maxV, hV, h, maxOver_three]⟩

end

/-! The placement of a block (R379, R381). -/

/-- A byte of a run just written. -/
theorem Memory.read_writeAll_of_lt {m : Memory} (hm : Memory.wf m = true) (a : Nat) {vs : List Byte} {k : Nat}
    (hk : k < vs.length) : Memory.read (Memory.writeAll m a vs) (a + k) = vs.getD k 0#8 := by
  induction vs generalizing m a k with
  | nil => cases hk
  | cons v vs ih =>
    cases k with
    | zero =>
      exact (Memory.read_writeAll_other _ (a + 1) vs a (.inl (Nat.lt_succ_self a))).trans (Memory.read_write_same hm a v)
    | succ k =>
      rw [Memory.writeAll, show a + (k + 1) = a + 1 + k by omega, ih (Memory.wf_write hm a v) _ (Nat.lt_of_succ_lt_succ hk)]
      rfl

/-- The address of sample `(x, y)` of the current block. -/
def blockAddress (s : State) (y x : Nat) : Nat := planeAddress s.jdec s.jc.c (blockY s + y) (blockX s + x)

theorem blockAddress_add (s : State) (y x : Nat) :
    blockAddress s y x = planeAddress s.jdec s.jc.c (blockY s + y) (blockX s) + x := by
  rw [blockAddress, planeAddress, planeAddress, Nat.add_assoc]

/-- The rows of a block do not overlap where the block lies within its plane. -/
theorem blockAddress_lt (hin : blockX s + 8 ≤ planeWidth s.jdec s.jc.c) {y y' x : Nat} (hy : y < y') (hx : x < 8) :
    blockAddress s y x < blockAddress s y' 0 := by
  have hrow := Nat.mul_le_mul_right (planeWidth s.jdec s.jc.c) (show blockY s + y + 1 ≤ blockY s + y' by omega)
  rw [Nat.add_mul, Nat.one_mul] at hrow
  unfold blockAddress planeAddress
  omega

theorem sampRow_length (hsamp : s.samp.length = 64) {y : Nat} (hy : y < 8) : (sampRow s y).length = 8 := by
  rw [sampRow, List.length_take, List.length_drop, hsamp]
  omega

theorem sampRow_getD {y x : Nat} (hx : x < 8) : (sampRow s y).getD x 0#8 = s.samp.getD (8 * y + x) 0#8 := by
  rw [sampRow, List.getD_eq_getElem?_getD, List.getElem?_take_of_lt hx, List.getElem?_drop, List.getD_eq_getElem?_getD]

/-- Row `7 - n` is the first of the last `n + 1` rows. -/
theorem placeRows_succ (s : State) (n : Nat) (m : Memory) : placeRows s (n + 1) m =
    placeRows s n (Memory.writeAll m (blockAddress s (7 - n) 0) (sampRow s (7 - n))) := rfl

/-- The last `n` rows of a block hold their samples, those before what was there. -/
theorem read_placeRows {n : Nat} (hn : n ≤ 8) (hsamp : s.samp.length = 64)
    (hin : blockX s + 8 ≤ planeWidth s.jdec s.jc.c) {m : Memory} (hm : Memory.wf m = true) {y x : Nat} (hy : y < 8) (hx : x < 8) :
    Memory.read (placeRows s n m) (blockAddress s y x) =
      if 8 - n ≤ y then s.samp.getD (8 * y + x) 0#8 else Memory.read m (blockAddress s y x) := by
  induction n generalizing m with
  | zero => exact (if_neg (by omega)).symm
  | succ n ih =>
    rw [placeRows_succ, ih (Nat.le_of_succ_le hn) (Memory.wf_writeAll hm _ _)]
    have hlen := sampRow_length hsamp (show 7 - n < 8 by omega)
    rcases Nat.lt_trichotomy y (7 - n) with hlt | rfl | hgt
    · rw [if_neg (by omega), if_neg (by omega)]
      exact Memory.read_writeAll_other _ _ _ _ (.inl (blockAddress_lt hin hlt hx))
    · rw [if_neg (by omega), if_pos (by omega), blockAddress_add s _ x, ← sampRow_getD hx]
      exact Memory.read_writeAll_of_lt hm _ (hlen ▸ hx)
    · rw [if_pos (by omega), if_pos (by omega)]

/-- Outside the block a placement changes nothing. -/
theorem read_placeRows_other {n : Nat} (hn : n ≤ 8) (hsamp : s.samp.length = 64) {a : Nat}
    (ha : ∀ x y, x < 8 → y < 8 → a ≠ blockAddress s y x) (m : Memory) :
    Memory.read (placeRows s n m) a = Memory.read m a := by
  induction n generalizing m with
  | zero => rfl
  | succ n ih =>
    rw [placeRows_succ, ih (Nat.le_of_succ_le hn)]
    refine Memory.read_writeAll_other _ _ _ _ ?_
    rw [sampRow_length hsamp (by omega)]
    by_contra hinside
    refine ha (a - blockAddress s (7 - n) 0) (7 - n) (by omega) (by omega) ?_
    rw [blockAddress_add] at hinside ⊢
    rw [blockAddress_add]
    omega

/-! The order of the blocks (R378, R383, R386). -/

/-- The locals at the block of component `c` at column `bx`, row `by_` of its MCU. -/
def Jc.atBlock (d : Jdec) (j : Jc) (c bx by_ : Nat) : Jc :=
  { j with c := c, td := (scanComp d c).td, ta := (scanComp d c).ta, k := 0, bx := bx, by_ := by_ }

/-- From `s` the scan goes on in `u` at an MCU: at its first block, or at the restart marker that is due. -/
def State.GoesOnAtMcu (s u : State) (mx my : Nat) : Prop :=
  if s.jdec.restartInterval ≠ 0 ∧ s.jdec.mcuLeft = 0 then
    u.GoesOn .jpegRestart { s.jc with mx := mx, my := my } s.jdec s.jbr
  else u.GoesOn .jpegDc { Jc.atBlock s.jdec s.jc 0 0 0 with mx := mx, my := my }
    { s.jdec with mcuLeft := if s.jdec.restartInterval = 0 then s.jdec.mcuLeft else s.jdec.mcuLeft - 1 } s.jbr

/-- After the block of `s` the scan goes on in `u`. -/
def State.GoesOnAfterBlock (s u : State) : Prop :=
  let j := s.jc
  if j.bx + 1 < factorH s.jdec j.c then u.GoesOn .jpegDc (Jc.atBlock s.jdec j j.c (j.bx + 1) j.by_) s.jdec s.jbr
  else if j.by_ + 1 < factorV s.jdec j.c then u.GoesOn .jpegDc (Jc.atBlock s.jdec j j.c 0 (j.by_ + 1)) s.jdec s.jbr
  else if j.c + 1 < s.jdec.ncomp then u.GoesOn .jpegDc (Jc.atBlock s.jdec j (j.c + 1) 0 0) s.jdec s.jbr
  else if j.mx + 1 < mcusAcross s.jdec then s.GoesOnAtMcu u (j.mx + 1) j.my
  else if j.my + 1 < mcusDown s.jdec then s.GoesOnAtMcu u 0 (j.my + 1)
  else u.GoesOn .jpegMarker j { s.jdec with pos := s.jbr.pos, seenSos := true } { s.jbr with cnt := 0 }

theorem goesOnAtMcu_beginMcu (s : State) (mx my : Nat) : s.GoesOnAtMcu (beginMcu mx my s) mx my := by
  unfold State.GoesOnAtMcu beginMcu
  split
  · exact ⟨rfl, rfl, rfl, rfl⟩
  · exact ⟨rfl, rfl, rfl, rfl⟩

theorem goesOnAfterBlock_nextBlock (s : State) : s.GoesOnAfterBlock (nextBlock s) := by
  generalize hu : nextBlock s = u
  unfold nextBlock at hu
  unfold State.GoesOnAfterBlock
  dsimp only at hu ⊢
  by_cases hbx : s.jc.bx + 1 < factorH s.jdec s.jc.c
  · rw [if_pos hbx] at hu ⊢
    exact hu ▸ ⟨rfl, rfl, rfl, rfl⟩
  rw [if_neg hbx] at hu ⊢
  by_cases hby : s.jc.by_ + 1 < factorV s.jdec s.jc.c
  · rw [if_pos hby] at hu ⊢
    exact hu ▸ ⟨rfl, rfl, rfl, rfl⟩
  rw [if_neg hby] at hu ⊢
  by_cases hc : s.jc.c + 1 < s.jdec.ncomp
  · rw [if_pos hc] at hu ⊢
    exact hu ▸ ⟨rfl, rfl, rfl, rfl⟩
  rw [if_neg hc] at hu ⊢
  by_cases hmx : s.jc.mx + 1 < mcusAcross s.jdec
  · rw [if_pos hmx] at hu ⊢
    exact hu ▸ goesOnAtMcu_beginMcu s _ _
  rw [if_neg hmx] at hu ⊢
  by_cases hmy : s.jc.my + 1 < mcusDown s.jdec
  · rw [if_pos hmy] at hu ⊢
    exact hu ▸ goesOnAtMcu_beginMcu s _ _
  · rw [if_neg hmy] at hu ⊢
    exact hu ▸ ⟨rfl, rfl, rfl, rfl⟩

/-- A block that is begun has its coefficients cleared (R310). -/
theorem nextBlock_coef (s : State) (h : (nextBlock s).point = .jpegDc) : (nextBlock s).coef = List.replicate 64 0 := by
  have hmcu (mx my : Nat) (hp : (beginMcu mx my s).point = .jpegDc) : (beginMcu mx my s).coef = List.replicate 64 0 := by
    unfold beginMcu at hp ⊢
    dsimp only at hp ⊢
    split
    · rename_i hrestart
      rw [if_pos hrestart] at hp
      cases hp
    · rfl
  revert h
  unfold nextBlock
  dsimp only
  split
  · exact fun _ => rfl
  split
  · exact fun _ => rfl
  split
  · exact fun _ => rfl
  split
  · exact hmcu _ _
  split
  · exact hmcu _ _
  · nofun

/-! The end of a block of a scan (R379). -/

/-- The block dequantized and transformed. -/
def State.withSamples (s : State) : State :=
  transform { s with dq := (List.range 64).map (dequantValue s (frameComp s.jdec s.jc.c).tq) }

theorem exec_acEob {b : Option Nat} (hr : s.running = some (.jpeg b))
    (hdef : quantDefined s (frameComp s.jdec s.jc.c).tq = true)
    (hne : ∀ k, k < 64 → quantEntry s (frameComp s.jdec s.jc.c).tq k ≠ 0) :
    exec .acEob s = .next (nextBlock (placeBlock s.withSamples)) := by
  rw [exec, execAcEob, blockDone, hr]
  dsimp only
  rw [dequantize_of_defined hdef hne]
  rfl

theorem placeBlock_plane (h : s.jc.c < s.plane.length) :
    (placeBlock s).plane.getD s.jc.c [] = placeRows s 8 (s.plane.getD s.jc.c []) := by
  rw [List.getD_eq_getElem?_getD, placeBlock, List.getElem?_set_self h, Option.getD_some]

theorem placeBlock_plane_other {i : Nat} (h : i ≠ s.jc.c) : (placeBlock s).plane.getD i [] = s.plane.getD i [] := by
  rw [List.getD_eq_getElem?_getD, placeBlock, List.getElem?_set_ne h.symm, List.getD_eq_getElem?_getD]

/-- Settles O49. -/
theorem scanBlockReachesItsPlane : Obligations.ScanBlockReachesItsPlane := by
  refine ⟨fun d i => ⟨fun h => geometry_of_one h i, fun h => ?_⟩, ?_⟩
  · obtain ⟨hh, hv, hmaxH, hmaxV⟩ := geometry_of_three h i
    exact ⟨hh, hv, by rw [mcusAcross, hmaxH], by rw [mcusDown, hmaxV]⟩
  intro s b hr hplanes hc hwf hin t hdef hne
  have hsamp : s.withSamples.samp.length = 64 := idct_length _
  have hplane := placeBlock_plane (s := s.withSamples) (hplanes ▸ hc)
  have hcoef := nextBlock_coef (placeBlock s.withSamples)
  have hgoes := goesOnAfterBlock_nextBlock (placeBlock s.withSamples)
  obtain ⟨jd, jc, co, jb, p, hnext, -⟩ := nextBlock_frame (placeBlock s.withSamples)
  refine ⟨_, exec_acEob hr hdef hne, ?_⟩
  rw [hnext] at hcoef hgoes ⊢
  refine ⟨rfl, rfl, fun x y hx hy => ?_, fun a ha => ?_, fun i hi => placeBlock_plane_other (s := s.withSamples) hi, rfl, rfl,
    rfl, rfl, rfl, rfl, hcoef, hgoes⟩
  · exact (congrArg (Memory.read · _) hplane).trans <|
      (read_placeRows (Nat.le_refl 8) hsamp hin (getD_plane_wf hwf _) hy hx).trans (if_pos (by omega))
  · exact (congrArg (Memory.read · _) hplane).trans (read_placeRows_other (Nat.le_refl 8) hsamp ha _)

end Sys2Proof.Machine

/-! SUPPORT. How a step inside a call goes on or ends it (60_exceptions.md R403, R407, R408; 70_reset_and_hazards.md R443): the
registers of the outcome are touched by the end of the call alone. What is asked of the call that runs is left open; so are the
control points where it may go on and the kinds with which it may fail. -/

namespace Sys2Proof.Machine

/-- The registers that say how a call ended, `OUT` aside (R403). -/
def State.outcome (s : State) : Byte × Byte × List Byte × Word × Word × Word × Byte × Word :=
  (s.status, s.errkind, s.diag, s.resValue, s.resWidth, s.resHeight, s.resChannels, s.resLen)

/-- A step from `s` may reach `u` while a call that meets `C` works. -/
def State.Works (C : Option Call → Prop) (s u : State) : Prop := u.outcome = s.outcome ∧ C u.running

/-- A step from `s` may leave `t`: the call goes on at a point that meets `P`, has ended OK, or has failed with a kind that
meets `K`. -/
inductive State.StepsTo (C : Option Call → Prop) (P : Point → Prop) (K : FailKind → Prop) (s : State) : State → Prop
  | goesOn {t : State} (h : s.Works C t) (hp : P t.point) : s.StepsTo C P K t
  | ends (u : State) : s.StepsTo C P K (endOk u)
  | fails {k : FailKind} {u : State} (h : C u.running) (hk : K k) : s.StepsTo C P K (failCall k u)

section

variable {C : Option Call → Prop} {P Q : Point → Prop} {K L : FailKind → Prop} {s u v t : State}

theorem State.StepsTo.imp (h : s.StepsTo C P K t) (hP : ∀ p, P p → Q p) (hK : ∀ k, K k → L k) : s.StepsTo C Q L t := by
  cases h with
  | goesOn h hp => exact .goesOn h (hP _ hp)
  | ends u => exact .ends u
  | fails h hk => exact .fails h (hK _ hk)

theorem State.Works.call (h : s.Works C u) : C u.running := h.2

theorem stepsTo_raise {k : FailKind} (h : s.Works C u) (hk : K k) : Answers (s.StepsTo C P K) (raise k u) :=
  .fails h.call hk

/-- An operation that can fail, and what follows it. -/
theorem stepsTo_run {α : Type} {x : Res α} {f : α → State → Out}
    (hok : ∀ a v, x = .ok a v → Answers (s.StepsTo C P K) (f a v))
    (hfail : ∀ k v, x = .fail k v → s.Works C v ∧ K k) : Answers (s.StepsTo C P K) (x.run f) := by
  cases x with
  | ok a v => exact hok a v rfl
  | fail k v => exact stepsTo_raise (hfail k v rfl).1 (hfail k v rfl).2

theorem State.Works.reads (h : s.Works C u) (hr : u.Reads v) : s.Works C v := by
  obtain ⟨b, j, rfl, -⟩ := hr
  exact h

theorem firstFail_mem {checks : List (Bool × FailKind)} {k : FailKind} (h : firstFail checks = some k) :
    k ∈ checks.map (·.2) := by
  induction checks with
  | nil => cases h
  | cons c checks ih =>
    rw [firstFail] at h
    split at h
    · exact Option.some.inj h ▸ List.mem_cons_self
    · exact List.mem_cons_of_mem _ (ih h)

theorem stepsTo_unlessFail {checks : List (Bool × FailKind)} {k : Out} (h : s.Works C u)
    (hkinds : ∀ x ∈ checks.map (·.2), K x) (hk : Answers (s.StepsTo C P K) k) :
    Answers (s.StepsTo C P K) (unlessFail checks u k) := by
  refine answers_of_next fun t ho => ?_
  obtain ⟨-, ht⟩ | ⟨kind, hkind, rfl⟩ := unlessFail_next ho
  · exact hk.of_next ht
  · exact .fails h.call (hkinds kind (firstFail_mem hkind))

end

/-! JDEC and JCOEF (48_jpeg_decoder.md, 45_jpeg_entropy.md): they stay in JDEC, and copy no match. -/

section

/-- A step of JDEC. -/
abbrev State.JpegStep (C : Option Call → Prop) (s t : State) : Prop :=
  s.StepsTo C (fun p => p.inJpeg = true) (fun k => k ≠ .invalidBackreference) t

variable {C : Option Call → Prop} {s u v t : State}

theorem segment_fail_kind {k : FailKind} (h : segment u = .fail k v) : k ≠ .invalidBackreference := by
  unfold segment at h
  dsimp only at h
  split at h
  · cases h; decide
  · split at h
    · cases h; decide
    · split at h
      · cases h; decide
      · cases h

theorem loadQuant_fail {k : FailKind} {n : Nat} {wide : Bool} {entries : List Nat} (h : loadQuant n wide entries u = .fail k v) :
    k = .invalidTable := by
  unfold loadQuant at h
  split at h
  · cases h; rfl
  · cases h

theorem loadQuantTables_fail_kind {fuel : Nat} {payload : List Byte} {k : FailKind}
    (h : loadQuantTables fuel payload u = .fail k v) : k ≠ .invalidBackreference := by
  induction fuel generalizing payload u with
  | zero => cases h
  | succ fuel ih =>
    cases payload with
    | nil => cases h
    | cons b rest =>
      rw [loadQuantTables] at h
      generalize (if highNibble b == 1 then 128 else 64) = size at h
      split at h
      · cases h; decide
      · obtain h | ⟨_, w, -, h⟩ := Res.bind_fail h
        · rw [loadQuant_fail h]; decide
        · exact ih h

theorem jpegStep_segment {f : List Byte → State → Out} (h : s.Works C u)
    (hf : ∀ payload v, s.Works C v → Answers (s.JpegStep C) (f payload v)) : Answers (s.JpegStep C) ((segment u).run f) := by
  refine stepsTo_run (fun payload v hv => hf payload v ?_) fun k v hv => ⟨?_, segment_fail_kind hv⟩
  · obtain ⟨-, -, -, -, rfl⟩ := segment_ok hv
    exact h
  · exact segment_fail hv ▸ h

theorem jpegStep_receive {n : Nat} {f : Nat → State → Out} (h : s.Works C u)
    (hf : ∀ m v, s.Works C v → Answers (s.JpegStep C) (f m v)) : Answers (s.JpegStep C) ((receive n u).run f) := by
  refine stepsTo_run (fun m v hv => hf m v ?_) fun k v hv => ?_
  · obtain ⟨j, rfl⟩ := receive_ok hv
    exact h
  · obtain ⟨rfl, rfl⟩ := receive_fail hv
    exact ⟨h, nofun⟩

theorem jpegStep_nextBlock (h : s.Works C u) : s.JpegStep C (nextBlock u) := by
  obtain ⟨jd, jc, co, j, p, hnext, hp, -⟩ := nextBlock_frame u
  rw [hnext]
  refine .goesOn h ?_
  rcases hp with rfl | rfl | rfl <;> rfl

theorem jpegStep_blockDone (h : s.Works C u) : Answers (s.JpegStep C) (blockDone u) := by
  unfold blockDone
  split
  · exact .ends _
  · refine stepsTo_run (fun _ v hv => ?_) fun k v hv => ?_
    · obtain ⟨-, rfl⟩ := dequantize_ok hv
      exact jpegStep_nextBlock h
    · obtain ⟨rfl, rfl⟩ := dequantize_fail hv
      exact ⟨h, nofun⟩
  · trivial

theorem jpegStep_acLoop (h : s.Works C u) : Answers (s.JpegStep C) (acLoop u) :=
  answers_ite (.goesOn h rfl) (jpegStep_blockDone h)

theorem jpegStep_execDcCat {c : BitVec 4} (h : s.Works C u) : Answers (s.JpegStep C) (execDcCat c u) :=
  jpegStep_receive h fun _ _ hv => jpegStep_acLoop hv

theorem jpegStep_execAcRunsize {rs : Byte} (h : s.Works C u) : Answers (s.JpegStep C) (execAcRunsize rs u) :=
  answers_ite (stepsTo_raise h nofun) (jpegStep_receive h fun _ _ hv => jpegStep_acLoop hv)

theorem jpegStep_execMSof0 (h : s.Works C u) : Answers (s.JpegStep C) (execMSof0 u) :=
  jpegStep_segment h fun _ _ hv =>
    stepsTo_unlessFail hv (by simp) <| stepsTo_unlessFail hv (by simp [frameCountChecks]) <|
      stepsTo_unlessFail hv (by simp [frameCompChecks]) <| .goesOn hv rfl

theorem jpegStep_loadQuantTables {fuel : Nat} {payload : List Byte} (hnote : ∀ n r, C r → C (noteBadTable n r))
    (h : s.Works C u) :
    Answers (s.JpegStep C) ((loadQuantTables fuel payload u).run fun _ w => .next (nextMarker w)) := by
  refine stepsTo_run (fun _ v hv => ?_) fun k v hv => ⟨?_, loadQuantTables_fail_kind hv⟩
  · obtain ⟨qt, qtPrec, qtDef, rfl⟩ := loadQuantTables_frame hv
    exact .goesOn h rfl
  · obtain ⟨qt, qtPrec, qtDef, r, rfl, rfl | ⟨n, rfl⟩⟩ := loadQuantTables_fail_frame hv
    · exact h
    · exact ⟨h.1, hnote n _ h.call⟩

theorem State.Works.loadSlot (h : s.Works C u) (n : Nat) (tree : Tree) : s.Works C (releaseJhuf (setJpegSlot u n tree)) := by
  rw [setJpegSlot_eq]
  exact h

theorem jpegStep_loadHuffTables {fuel : Nat} {payload : List Byte} (h : s.Works C u) :
    Answers (s.JpegStep C) (loadHuffTables fuel payload u) := by
  induction fuel generalizing payload u with
  | zero => exact .goesOn h rfl
  | succ fuel ih =>
    cases payload with
    | nil => exact .goesOn h rfl
    | cons b rest =>
      rw [loadHuffTables]
      exact answers_ite (stepsTo_raise h nofun) <| answers_ite (stepsTo_raise h nofun) <|
        answers_ite (ih (h.loadSlot _ _)) trivial

theorem jpegStep_execMSos (h : s.Works C u) : Answers (s.JpegStep C) (execMSos u) := by
  refine jpegStep_segment h fun _ v hv => stepsTo_unlessFail hv (by simp) <| stepsTo_unlessFail hv (by simp) ?_
  rw [beginScan_eq]
  exact .goesOn hv rfl

/-- The formats of JDEC and JCOEF. -/
def jpegFormat (f : Format) : Bool := f == .jpegMarker || f == .jpegDc || f == .jpegAc

/-- Each element of JDEC and JCOEF. -/
theorem jpegStep_exec {i : Instr} (hi : jpegFormat (formatOf i) = true) (hnote : ∀ n r, C r → C (noteBadTable n r))
    (h : s.Works C u) : Answers (s.JpegStep C) (exec i u) := by
  cases i with
  | mSoi => exact answers_ite (stepsTo_raise h nofun) (.goesOn h rfl)
  | mEoi => exact answers_ite (stepsTo_raise h nofun) (.ends _)
  | mSof0 => exact jpegStep_execMSof0 h
  | mSof1 | mSof2 | mSof3 | mSof5 | mSof6 | mSof7 | mSof9 | mSof10 | mSof11 | mSof13 | mSof14 | mSof15 | dcInvalid =>
    exact stepsTo_raise h nofun
  | mDht => exact jpegStep_segment h fun _ _ hv => jpegStep_loadHuffTables hv
  | mDqt => exact jpegStep_segment h fun _ _ hv => jpegStep_loadQuantTables hnote hv
  | mDri => exact jpegStep_segment h fun _ _ hv => stepsTo_unlessFail hv (by simp) <| .goesOn hv rfl
  | mSos => exact jpegStep_execMSos h
  | mRst => exact answers_ite (.goesOn h rfl) (stepsTo_raise h nofun)
  | mOther => exact jpegStep_segment h fun _ _ hv => .goesOn hv rfl
  | dcCat => exact jpegStep_execDcCat h
  | acEob => exact jpegStep_blockDone h
  | acZrl => exact jpegStep_acLoop h
  | acRunsize => exact jpegStep_execAcRunsize h
  | _ => cases hi -- an element of another unit

end

/-! The elements of INF, ZLB and PNG (42_inflate.md, 43_zlib.md, 44_png.md). -/

section

/-- A step of any unit. -/
abbrev State.CallStep (C : Option Call → Prop) (s t : State) : Prop := s.StepsTo C (· ≠ .idle) (fun _ => True) t

variable {C : Option Call → Prop} {s u v t : State}

theorem State.JpegStep.callStep (h : s.JpegStep C t) : s.CallStep C t :=
  State.StepsTo.imp h (fun _ hp hidle => by rw [hidle] at hp; cases hp) fun _ _ => trivial

theorem callStep_goesOn (h : s.Works C t) (hp : t.point ≠ .idle) : s.CallStep C t := .goesOn h hp

theorem callStep_raise {k : FailKind} (h : s.Works C u) : Answers (s.CallStep C) (raise k u) := .fails h.call trivial

/-- A read, and what follows it. -/
theorem Res.Leaves.callStep {α : Type} {x : Res α} {f : α → State → Out} (hx : x.Leaves u.Reads) (h : s.Works C u)
    (hf : ∀ a v, s.Works C v → Answers (s.CallStep C) (f a v)) : Answers (s.CallStep C) (x.run f) := by
  cases x with
  | ok a v => exact hf a v (h.reads hx)
  | fail k v => exact callStep_raise (h.reads hx)

theorem State.Works.emitAll (h : s.Works C u) (bytes : List Byte) : s.Works C (emitAll bytes u) := by
  obtain ⟨o, w, i, e, -⟩ := emitAll_frame bytes u
  rw [e]
  exact h

theorem State.Works.copyBack (h : s.Works C u) (d n : Nat) : s.Works C (copyBack d n u) := by
  obtain ⟨o, w, i, e, -⟩ := copyBack_frame d n u
  rw [e]
  exact h

theorem callStep_finishBlock (h : s.Works C u) : Answers (s.CallStep C) (finishBlock u) := by
  refine answers_of_next fun t ho => ?_
  -- a block header follows; or INF ends; or ZLB ends or fails; or PNG fails one of two ways or goes on to its rows
  obtain ⟨-, rfl⟩ | ⟨-, ⟨-, rfl⟩ | ⟨-, rfl | rfl⟩ | ⟨-, rfl | rfl | rfl⟩⟩ := finishBlock_next ho
  · exact callStep_goesOn h nofun
  · exact .ends _
  · exact .ends _
  · exact .fails h.call trivial
  · exact .fails h.call trivial
  · exact .fails h.call trivial
  · exact callStep_goesOn h nofun

theorem callStep_execStoredLenNlen {len nlen : Half} (h : s.Works C u) :
    Answers (s.CallStep C) (execStoredLenNlen len nlen u) :=
  answers_ite (Res.Leaves.callStep (readBytes_reads _ _) h fun bytes _ hv => callStep_finishBlock (hv.emitAll bytes))
    (callStep_raise h)

theorem callStep_execDynCounts {hlit hdist : BitVec 5} {hclen : BitVec 4} (h : s.Works C u) :
    Answers (s.CallStep C) (execDynCounts hlit hdist hclen u) :=
  Res.Leaves.callStep (readClenFields_reads _ _) h fun _ _ hv => answers_ite (callStep_goesOn hv nofun) trivial

theorem callStep_lengthsDone (h : s.Works C u) : Answers (s.CallStep C) (lengthsDone u) :=
  answers_ite (callStep_goesOn h nofun) (answers_ite (callStep_goesOn h nofun) trivial)

theorem callStep_appendLengths {n r : Nat} (h : s.Works C u) : Answers (s.CallStep C) (appendLengths n r u) :=
  answers_ite (callStep_raise h) (callStep_lengthsDone h)

theorem callStep_execClRep (h : s.Works C u) : Answers (s.CallStep C) (execClRep u) := by
  unfold execClRep
  split
  · exact callStep_raise h
  · exact (readBits_reads _ _).callStep h fun _ _ hv => callStep_appendLengths hv

theorem callStep_lengthCode {i : Instr} (hi : i ∈ lengthInstrs) (h : s.Works C u) : Answers (s.CallStep C) (exec i u) := by
  obtain ⟨k, hk⟩ := List.getElem?_of_mem hi
  rw [exec_lengthInstrs hk]
  exact (extraBits_reads _ _).callStep h fun _ _ hv => callStep_goesOn hv nofun

theorem callStep_distanceCode {i : Instr} (hi : i ∈ distInstrs) (h : s.Works C u) : Answers (s.CallStep C) (exec i u) := by
  obtain ⟨k, hk⟩ := List.getElem?_of_mem hi
  rw [exec_distInstrs hk]
  exact (extraBits_reads _ _).callStep h fun _ _ hv =>
    answers_ite (callStep_raise hv) (callStep_goesOn (hv.copyBack _ _) nofun)

theorem callStep_blockStored (b : Bool) (h : s.Works C u) : Answers (s.CallStep C) (exec (.blockStored b) u) := by
  rw [exec, execBlockStored, alignToByte_eq]
  exact callStep_goesOn h nofun

theorem callStep_beginZlib (h : s.Works C u) : Answers (s.CallStep C) (beginZlib u) :=
  answers_ite (callStep_raise h) (callStep_goesOn h nofun)

theorem callStep_execZlibHdr {cmf flg : Byte} (h : s.Works C u) : Answers (s.CallStep C) (execZlibHdr cmf flg u) := by
  unfold execZlibHdr
  dsimp only
  split
  · exact callStep_raise h
  · exact callStep_goesOn h nofun

theorem callStep_checkHeader {legal : List Nat} (h : s.Works C u) : Answers (s.CallStep C) (checkHeader legal u) :=
  answers_ite (callStep_raise h) <| answers_ite (callStep_raise h) <| answers_ite (callStep_raise h) <|
    answers_ite (callStep_raise h) (callStep_goesOn h nofun)

theorem callStep_convertRows {ch : Nat} {f : List Byte → Option (List Byte)} (h : s.Works C u) :
    Answers (s.CallStep C) (convertRows ch f u) := by
  unfold convertRows
  split
  · exact .ends _
  · exact callStep_raise h

theorem callStep_reconstructRow {pred : Byte → Byte → Byte → Byte} (h : s.Works C u) :
    Answers (s.CallStep C) (reconstructRow pred u) := by
  refine callStep_goesOn h ?_
  show (if _ then Point.pngRow else .pngConvert) ≠ .idle
  split <;> nofun

/-- Each element of a stream. -/
theorem callStep_exec {i : Instr} (hi : formatOf i ≠ .cmd) (hnote : ∀ n r, C r → C (noteBadTable n r))
    (hpng : C (some .png)) (h : s.Works C u) : Answers (s.CallStep C) (exec i u) := by
  by_cases hjpeg : jpegFormat (formatOf i) = true
  · exact (jpegStep_exec hjpeg hnote h).imp fun _ ht => ht.callStep
  cases i with
  | blockStored b => exact callStep_blockStored b h
  | blockFixed | blockDynamic | fixll0to143 | fixll144to255 | fixll256to279 | fixll280to287 | fixd0to31 | lit |
    pngSignature | chunkOther => exact callStep_goesOn h nofun
  | blockReserved | lenInvalid | distInvalid | ctInvalid | filterInvalid => exact callStep_raise h
  | storedLenNlen => exact callStep_execStoredLenNlen h
  | dynCounts => exact callStep_execDynCounts h
  | clLen => exact callStep_lengthsDone h
  | clRep => exact callStep_execClRep h
  | clZero3 | clZero11 => exact (readBits_reads _ _).callStep h fun _ _ hv => callStep_appendLengths hv
  | eob => exact callStep_finishBlock h
  | len257 | len258 | len259 | len260 | len261 | len262 | len263 | len264 | len265 | len266 | len267 | len268 |
    len269 | len270 | len271 | len272 | len273 | len274 | len275 | len276 | len277 | len278 | len279 | len280 |
    len281 | len282 | len283 | len284 | len285 => exact callStep_lengthCode (by decide) h
  | dist0 | dist1 | dist2 | dist3 | dist4 | dist5 | dist6 | dist7 | dist8 | dist9 | dist10 | dist11 | dist12 |
    dist13 | dist14 | dist15 | dist16 | dist17 | dist18 | dist19 | dist20 | dist21 | dist22 | dist23 | dist24 |
    dist25 | dist26 | dist27 | dist28 | dist29 => exact callStep_distanceCode (by decide) h
  | zlibHdr => exact callStep_execZlibHdr h
  | chunkIhdr | chunkPlte =>
    exact answers_ite (callStep_raise h) (answers_ite (callStep_raise h) (callStep_goesOn h nofun))
  | chunkIdat | ihdrPayload => exact answers_ite (callStep_raise h) (callStep_goesOn h nofun)
  | chunkIend => exact answers_ite (callStep_raise h) (callStep_beginZlib ⟨h.1, hpng⟩)
  | ctGray | ctTruecolor | ctIndexed | ctGrayAlpha | ctTruecolorAlpha =>
    exact answers_ite (callStep_convertRows h) (callStep_checkHeader h)
  | filterNone | filterSub | filterUp | filterAverage | filterPaeth => exact callStep_reconstructRow h
  | brReset | brReadbits | brReadbit | brReadbitsRev | brAlign | brReadbytes | hufBuild | hufBuildFixed | hufDecode |
    infDecompress | zlbDecompress | pngDecode | jhufBuild | jcReset | jcBlock | jdqLoad | jdqBlock | jidctBlock | jccPixel |
    jccGray | jpegDecode => exact absurd rfl hi
  | _ => exact absurd rfl hjpeg -- an element of JDEC or JCOEF

end

end Sys2Proof.Machine

/-! SUPPORT. The fetch inside a call: it leaves the outcome and the call as they are (R411). -/

namespace Sys2Proof.Machine

variable {C : Option Call → Prop} {P : Point → Prop} {K : FailKind → Prop} {s t u : State}

/-- A read as the fetch does it. -/
theorem Res.Leaves.fetchedWorks {x : Res Nat} (hx : x.Leaves s.Reads) (h : s.Works C s) {f : Format} :
    (Fetched.ofRes f x).Leaves (s.Works C) :=
  (hx.imp fun _ hv => h.reads hv).fetched

theorem fetchSymbol_works (f : Format) (tree : Tree) (h : s.Works C s) : (fetchSymbol f tree s).Leaves (s.Works C) := by
  unfold fetchSymbol
  split
  · exact (decodeSymbol_reads tree s).fetchedWorks h
  · trivial

theorem fetchJpegSymbol_works (f : Format) (tree : Tree) (h : s.Works C s) :
    (fetchJpegSymbol f tree s).Leaves (s.Works C) := by
  unfold fetchJpegSymbol
  split
  · exact (jdecode_reads tree s).fetchedWorks h
  · trivial

/-- A test of the fetch that fails the call. -/
theorem leaves_unless {c : Prop} [Decidable c] {k : FailKind} {x : Fetched} (hu : s.Works C u)
    (hx : x.Leaves (s.Works C)) : (if c then .fail k u else x).Leaves (s.Works C) := by
  split
  · exact hu
  · exact hx

theorem fetch_works (h : s.Works C s) : (fetch s).Leaves (s.Works C) := by
  unfold fetch
  cases s.point with
  | idle | litlenSym | distSym | zlibHdr | pngIhdr | pngCheck | pngRow | pngConvert => exact h
  | blockHdr | stored | dynHdr => exact (readBits_reads _ s).fetchedWorks h
  | clen => exact fetchSymbol_works _ _ h
  | litlenCode =>
    dsimp only
    split
    · rw [fixedLitCode_eq]
      exact (readBitsReversed_reads _ s).fetchedWorks h
    · exact fetchSymbol_works _ _ h
  | distCode =>
    dsimp only
    split
    · exact (readBitsReversed_reads _ s).fetchedWorks h
    · exact fetchSymbol_works _ _ h
  | pngSignature | jpegSoi | jpegMarker | jpegRestart => exact leaves_unless h (leaves_unless h h)
  | pngChunk => exact leaves_unless h (leaves_unless h (leaves_unless h h))
  | jpegDc | jpegAc => exact fetchJpegSymbol_works _ _ h

/-- What was fetched is run, or the failure of the fetch taken. -/
theorem stepsTo_runFetched (h : s.Works C s)
    (hfail : ∀ k u, fetch s = .fail k u → K k)
    (hrun : ∀ i u, fetchedAt (formatOf i) s.point → s.Works C u → Answers (s.StepsTo C P K) (exec i u)) :
    Answers (s.StepsTo C P K) (runFetched (fetch s)) := by
  have hfits := fetch_fits s
  have hworks := fetch_works h
  cases hfetch : fetch s with
  | element f w u =>
    rw [hfetch] at hfits hworks
    obtain ⟨hat, -, -, -⟩ := hfits
    show Answers _ (runElement f w u)
    unfold runElement
    split
    · rename_i i hi
      obtain ⟨-, rfl, -⟩ := decodedInstructionsAreWellFormed f w i hi
      exact hrun i u hat hworks
    · trivial
  | fail k u =>
    rw [hfetch] at hworks
    exact stepsTo_raise hworks (hfail k u hfetch)
  | refuse r => trivial

/-! Any call (R403, R443). -/

theorem formatOf_ne_cmd {f : Format} {p : Point} (hat : fetchedAt f p) (hp : p ≠ .idle) : f ≠ .cmd := by
  rintro rfl
  exact hp hat

theorem callStep_step (hp : s.point ≠ .idle) (hnote : ∀ n r, C r → C (noteBadTable n r)) (hpng : C (some .png))
    (h : C s.running) : Answers (s.CallStep C) (step s) := by
  rw [step_in_call hp]
  exact stepsTo_runFetched ⟨rfl, h⟩ (fun _ _ _ => trivial)
    fun i u hat hu => callStep_exec (formatOf_ne_cmd hat hp) hnote hpng hu

/-- The call `r` uses a cursor if the call `r₀` does (R103). -/
def usesCursorIf (r₀ r : Option Call) : Prop :=
  (r₀.getD .plain).usesCursor = true → (r.getD .plain).usesCursor = true

/-- The note of a bad table changes no call but a JPEG_DECODE, which stays one (R405). -/
theorem usesCursorIf_noteBadTable (n : Nat) {r₀ r : Option Call} (h : usesCursorIf r₀ r) :
    usesCursorIf r₀ (noteBadTable n r) := by
  unfold noteBadTable
  split
  · exact h
  · exact h

theorem FailKind.one_le_code_toNat (k : FailKind) : 1 ≤ k.code.toNat := by cases k <;> decide

/-- Settles O10: the elements and the fetch leave the registers of the outcome to the end of the call, and a call that uses a
cursor still does where it fails. -/
theorem callEndsOnlyByItsRule : Obligations.CallEndsOnlyByItsRule := by
  intro s t _ hp ht
  have hstep : s.CallStep (usesCursorIf s.running) t :=
    (callStep_step hp (fun n _ => usesCursorIf_noteBadTable n) (fun _ => rfl) id).of_next ht
  cases hstep with
  | goesOn h hpt =>
    obtain ⟨houtcome, -⟩ := h
    simp only [State.outcome, Prod.mk.injEq] at houtcome
    exact .inl ⟨hpt, houtcome⟩
  | ends u => exact .inr ⟨rfl, rfl, .inl ⟨rfl, rfl⟩⟩
  | @fails k u h _ =>
    refine .inr ⟨rfl, rfl, .inr ⟨rfl, k.one_le_code_toNat, k.code_toNat_le, fun hs => ?_⟩⟩
    simp [h hs]

/-! JPEG_DECODE (R391, R408). -/

theorem not_inJpeg_of_inflating {p : Point} (h : p.inflating = true) : ¬ p.inJpeg = true := by
  revert h
  cases p <;> decide

theorem jpegFormat_of_inJpeg {f : Format} {p : Point} (hat : fetchedAt f p) (hp : p.inJpeg = true) :
    jpegFormat f = true := by
  cases f with
  | jpegMarker | jpegDc | jpegAc => rfl
  | cmd | zlib | pngFile | pngChunk | pngIhdr | pngFilter => cases hat; cases hp
  | pngColor => obtain rfl | rfl := hat <;> cases hp
  | _ => exact absurd hp (not_inJpeg_of_inflating hat)

theorem jdecode_fail_kind {k : FailKind} {tree : Tree} (h : jdecode tree s = .fail k u) : k ≠ .invalidBackreference := by
  unfold jdecode at h
  split at h
  · cases h
  · cases h; decide
  · cases h; decide

theorem fetchJpegSymbol_fail_kind {k : FailKind} {f : Format} {tree : Tree} (h : fetchJpegSymbol f tree s = .fail k u) :
    k ≠ .invalidBackreference := by
  unfold fetchJpegSymbol at h
  split at h
  · cases hdecode : jdecode tree s with
    | ok w v => rw [hdecode] at h; cases h
    | fail k' v => rw [hdecode] at h; cases h; exact jdecode_fail_kind hdecode
  · cases h

/-- Two tests of the fetch that fail the call. -/
theorem fail_kind_of_unless {c d : Prop} [Decidable c] [Decidable d] {f : Format} {w : Nat} {k : FailKind} {v x : State}
    (h : (if c then .fail .truncatedStream v else if d then .fail .malformedContainer v else .element f w x : Fetched)
      = .fail k u) : k ≠ .invalidBackreference := by
  split at h
  · cases h; decide
  · split at h
    · cases h; decide
    · cases h

theorem fetch_inJpeg_fail_kind {k : FailKind} (hp : s.point.inJpeg = true) (h : fetch s = .fail k u) :
    k ≠ .invalidBackreference := by
  unfold fetch at h
  cases hpoint : s.point with
  | jpegSoi | jpegMarker | jpegRestart => rw [hpoint] at h; exact fail_kind_of_unless h
  | jpegDc | jpegAc => rw [hpoint] at h; exact fetchJpegSymbol_fail_kind h
  | _ => rw [hpoint] at hp; cases hp

theorem jpegStep_step (hp : s.point.inJpeg = true) (hnote : ∀ n r, C r → C (noteBadTable n r)) (h : C s.running) :
    Answers (s.JpegStep C) (step s) := by
  rw [step_in_call fun hidle => by rw [hidle] at hp; cases hp]
  exact stepsTo_runFetched ⟨rfl, h⟩ (fun _ _ => fetch_inJpeg_fail_kind hp)
    fun i u hat hu => jpegStep_exec (jpegFormat_of_inJpeg hat hp) hnote hu

/-- The call is a JPEG_DECODE. -/
def isJpegDecode (r : Option Call) : Prop := ∃ b, r = some (.jpeg b)

theorem isJpegDecode_noteBadTable (n : Nat) {r : Option Call} (h : isJpegDecode r) : isJpegDecode (noteBadTable n r) := by
  obtain ⟨b, rfl⟩ := h
  exact ⟨some n, rfl⟩

theorem FailKind.code_ne_invalidBackreference {k : FailKind} (hk : k ≠ .invalidBackreference) :
    k.code ≠ FailKind.invalidBackreference.code := by
  revert hk
  cases k <;> decide

/-- Settles O13: JDEC runs markers and symbols of JCOEF alone, none of which copies a match. -/
theorem jpegNeverEndsInvalidBackreference : Obligations.JpegNeverEndsInvalidBackreference := by
  intro s t b hr herr hp ht
  have hstep : s.JpegStep isJpegDecode t :=
    (jpegStep_step hp (fun n _ => isJpegDecode_noteBadTable n) ⟨b, hr⟩).of_next ht
  cases hstep with
  | goesOn h hpt =>
    obtain ⟨houtcome, hrt⟩ := h
    simp only [State.outcome, Prod.mk.injEq] at houtcome
    obtain ⟨-, hkind, -⟩ := houtcome
    exact .inl ⟨hkind.trans herr, hpt, hrt⟩
  | ends u => exact .inr ⟨rfl, by rw [endOk_errkind]; decide⟩
  | fails h hk => exact .inr ⟨rfl, FailKind.code_ne_invalidBackreference hk⟩

end Sys2Proof.Machine

/-! SUPPORT. A command reads nothing of the last outcome (60_exceptions.md R404). -/

namespace Sys2Proof.Machine

/-- Both states are at rest: a command does in each what it does after the test. -/
theorem whenIdle_congr {s t : State} {j k : Out} (hs : s.Ready) (ht : t.Ready) (h : j = k) :
    whenIdle s j = whenIdle t k :=
  (whenIdle_ready hs j).trans (h.trans (whenIdle_ready ht k).symm)

/-- Settles O12: past the test for rest, a command works on what `beginCall` leaves, where every register that differs is
cleared. -/
theorem commandsDoNotReadTheLastOutcome : Obligations.CommandsDoNotReadTheLastOutcome := by
  intro i s st k d o v w h l c hi hs hst
  have hready : State.Ready { s with
      status := st, errkind := k, diag := d, resValue := v, resWidth := w, resHeight := h, resChannels := c,
      resLen := l, out := o } := ⟨hs.1, hst⟩
  cases i with
  | brReset | brReadbits | brReadbit | brReadbitsRev | brAlign | brReadbytes | hufBuild | hufDecode |
    infDecompress | zlbDecompress | pngDecode | jcReset | jcBlock | jdqLoad | jdqBlock | jidctBlock | jccPixel |
    jccGray | jpegDecode | hufBuildFixed | jhufBuild => exact whenIdle_congr hready hs rfl
  | _ => cases hi -- an element of a stream

end Sys2Proof.Machine

/-! SUPPORT. The state after reset (70_reset_and_hazards.md R440), with the CRC table that it builds (44_png.md R263), and the
start of a whole-stream call (R442). -/

namespace Sys2Proof.Machine

/-! CRC-32 (44_png.md R263). -/

/-- The polynomial, where the bit shifted out is set. -/
def crcMask (b : Bool) : Word := if b then 0xEDB88320#32 else 0#32

theorem crcMask_xor (a b : Bool) : crcMask (a ^^ b) = crcMask a ^^^ crcMask b := by
  cases a <;> cases b <;> decide

theorem crcRounds_one (c : Word) : crcRounds 1 c = c >>> 1 ^^^ crcMask (c.getLsbD 0) := by
  rw [crcRounds, crcRounds, crcMask]
  cases c.getLsbD 0
  · exact (BitVec.xor_zero).symm
  · exact BitVec.xor_comm _ _

theorem crcBit_eq (c : Word) (b : Bool) : crcBit c b = c >>> 1 ^^^ crcMask (c.getLsbD 0 ^^ b) := by
  rw [crcBit, crcMask, Bool.bne_eq_xor]
  cases c.getLsbD 0 ^^ b
  · exact (BitVec.xor_zero).symm
  · rfl

/-- The last of the rounds. -/
theorem crcRounds_succ (n : Nat) (c : Word) : crcRounds (n + 1) c = crcRounds 1 (crcRounds n c) := by
  induction n generalizing c with
  | zero => rfl
  | succ n ih => exact ih (crcRounds 1 c)

/-- A round is linear: the bit shifted out selects the polynomial. -/
theorem crcRounds_one_xor (a b : Word) : crcRounds 1 (a ^^^ b) = crcRounds 1 a ^^^ crcRounds 1 b := by
  simp only [crcRounds_one, BitVec.getLsbD_xor, BitVec.ushiftRight_xor_distrib, crcMask_xor]
  ac_rfl

theorem crcRounds_xor (n : Nat) (a b : Word) : crcRounds n (a ^^^ b) = crcRounds n a ^^^ crcRounds n b := by
  induction n with
  | zero => rfl
  | succ n ih => rw [crcRounds_succ, ih, crcRounds_one_xor, ← crcRounds_succ, ← crcRounds_succ]

/-- Rounds that shift out zeros only shift. -/
theorem crcRounds_of_low_zero {n : Nat} {c : Word} (h : ∀ i, i < n → c.getLsbD i = false) : crcRounds n c = c >>> n := by
  induction n with
  | zero => exact (BitVec.ushiftRight_zero c).symm
  | succ n ih =>
    have hbit : (c >>> n).getLsbD 0 = false := (BitVec.getLsbD_ushiftRight ..).trans (h n (Nat.lt_succ_self n))
    rw [crcRounds_succ, ih fun i hi => h i (Nat.lt_succ_of_lt hi), crcRounds_one, hbit, BitVec.shiftRight_add]
    exact BitVec.xor_zero

theorem ushiftRight_eight_of_lt {c : Word} (h : c.toNat < 256) : c >>> 8 = 0#32 := by
  apply BitVec.eq_of_toNat_eq
  rw [BitVec.toNat_ushiftRight, Nat.shiftRight_eq_div_pow]
  exact Nat.div_eq_of_lt h

theorem toNat_and_lowByte_lt (c : Word) : (c &&& 0xFF#32).toNat < 256 := by
  rw [BitVec.toNat_and]
  exact Nat.lt_succ_of_le Nat.and_le_right

theorem toNat_setWidth_byte (v : Byte) : (v.setWidth 32 : Word).toNat = v.toNat :=
  BitVec.toNat_setWidth_of_le (by decide)

/-- Eight rounds are those of the low byte, and a shift. -/
theorem crcRounds_eight (c : Word) : crcRounds 8 c = crcRounds 8 (c &&& 0xFF#32) ^^^ c >>> 8 := by
  have hones : ∀ i, i < 8 → (0xFF#32).getLsbD i = true := by decide
  have hhigh : crcRounds 8 (c ^^^ (c &&& 0xFF#32)) = c >>> 8 := by
    rw [crcRounds_of_low_zero fun i hi => ?_, BitVec.ushiftRight_xor_distrib,
      ushiftRight_eight_of_lt (toNat_and_lowByte_lt c), BitVec.xor_zero]
    rw [BitVec.getLsbD_xor, BitVec.getLsbD_and, hones i hi, Bool.and_true, Bool.xor_self]
  rw [← hhigh, ← crcRounds_xor, BitVec.xor_comm c, ← BitVec.xor_assoc, BitVec.xor_self, BitVec.zero_xor]

/-- An entry of the table. -/
theorem crcTable_getD {n : Nat} (h : n < 256) : crcTable.getD n 0#32 = crcRounds 8 (BitVec.ofNat 32 n) :=
  getD_map_range h _ _

theorem crcTable_getElem? {n : Nat} (h : n < 256) : crcTable[n]? = some (crcRounds 8 (BitVec.ofNat 32 n)) := by
  rw [crcTable, List.getElem?_map, List.getElem?_range h, Option.map_some]

/-- The table takes the eight rounds of a byte at once. -/
theorem crcByte_crcTable (c : Word) (v : Byte) : crcByte crcTable c v = crcRounds 8 (c ^^^ v.setWidth 32) := by
  have hbyte : (v.setWidth 32 : Word) >>> 8 = 0#32 := ushiftRight_eight_of_lt ((toNat_setWidth_byte v).trans_lt v.isLt)
  rw [crcByte, crcTable_getD (toNat_and_lowByte_lt _), BitVec.ofNat_toNat, BitVec.setWidth_eq, crcRounds_eight (c ^^^ _),
    BitVec.ushiftRight_xor_distrib, hbyte, BitVec.xor_zero]

/-- One bit into a register whose low bits are still to meet the bits to come. -/
theorem crcBit_xor (a w : Word) : crcBit (a ^^^ w) (w.getLsbD 0) = crcRounds 1 a ^^^ w >>> 1 := by
  rw [crcBit_eq, crcRounds_one, BitVec.getLsbD_xor, BitVec.ushiftRight_xor_distrib, Bool.xor_assoc, Bool.xor_self,
    Bool.xor_false]
  ac_rfl

/-- The first `n` bits of a byte one at a time: `n` rounds of the register that met the whole byte, the rest of the byte
taken out again. -/
theorem foldl_crcBit (c : Word) (v : Byte) {n : Nat} (h : n ≤ 8) : ((List.range n).map v.getLsbD).foldl crcBit c =
    crcRounds n (c ^^^ v.setWidth 32) ^^^ v.setWidth 32 >>> n := by
  induction n with
  | zero =>
    rw [BitVec.ushiftRight_zero, crcRounds, BitVec.xor_assoc, BitVec.xor_self, BitVec.xor_zero]
    rfl
  | succ n ih =>
    have hbit : v.getLsbD n = ((v.setWidth 32 : Word) >>> n).getLsbD 0 := by
      rw [BitVec.getLsbD_ushiftRight, BitVec.getLsbD_setWidth, decide_eq_true (show n + 0 < 32 by omega), Bool.true_and]
      rfl
    rw [List.range_succ, List.map_append, List.foldl_append, ih (Nat.le_of_succ_le h), List.map_singleton,
      List.foldl_cons, List.foldl_nil, hbit, crcBit_xor, ← crcRounds_succ, BitVec.shiftRight_add]

/-- A byte through the table is its eight bits one at a time. -/
theorem crcByte_eq_foldl (c : Word) (v : Byte) : crcByte crcTable c v = ((List.range 8).map v.getLsbD).foldl crcBit c := by
  rw [crcByte_crcTable, foldl_crcBit c v (Nat.le_refl 8),
    ushiftRight_eight_of_lt ((toNat_setWidth_byte v).trans_lt v.isLt), BitVec.xor_zero]

theorem crc32_crcTable (bytes : List Byte) : crc32 crcTable bytes = crcBitwise bytes := by
  have hbyte : crcByte crcTable = fun c v => ((List.range 8).map v.getLsbD).foldl crcBit c :=
    funext fun c => funext (crcByte_eq_foldl c)
  rw [crc32, crcBitwise, List.foldl_flatMap, hbyte]
  exact BitVec.xor_allOnes

/-! The state after reset (70_reset_and_hazards.md R440). -/

/-- A reset gives the values of R440 in whatever state it comes. -/
theorem atReset_resetCore (s : State) : (resetCore s).AtReset :=
  ⟨⟨rfl, rfl, rfl⟩, ⟨rfl, rfl, rfl, rfl⟩, ⟨rfl, rfl, rfl, rfl, rfl⟩, rfl, ⟨rfl, rfl⟩, ⟨rfl, rfl, rfl, rfl⟩, ⟨rfl, rfl⟩,
    ⟨rfl, rfl, rfl⟩, ⟨rfl, rfl, rfl, rfl, rfl, rfl⟩, ⟨rfl, rfl, rfl, rfl, rfl, rfl, rfl, rfl, rfl, rfl, rfl⟩,
    ⟨rfl, rfl, rfl, rfl, rfl⟩, ⟨rfl, rfl, rfl, rfl, rfl, rfl, rfl, rfl, rfl, rfl⟩,
    ⟨rfl, rfl, rfl, rfl, rfl, rfl, rfl, rfl, rfl, rfl, rfl, rfl, rfl, rfl, rfl, rfl, rfl, rfl, rfl⟩, ⟨rfl, rfl, rfl⟩⟩

/-- The state after reset is that of a reset: it has no input and no host operation to keep. -/
theorem resetCore_reset : resetCore State.reset = State.reset := rfl

/-- Settles O1. A reset is taken whatever else the state holds; the CRC table takes the eight bits of a byte at once. -/
theorem resetGivesTheStatedValues : Obligations.ResetGivesTheStatedValues := by
  refine ⟨atReset_resetCore State.reset, fun s rest hp hh => ?_, crc32_crcTable, (List.length_map _).trans List.length_range,
    (crcTable_getElem? (by decide)).trans (by decide), (crcTable_getElem? (by decide)).trans (by decide),
    (crcTable_getElem? (by decide)).trans (by decide), by decide +kernel⟩
  exact ⟨_, step_of_host hp hh, atReset_resetCore { s with host := rest }, rfl, rfl⟩

theorem reset_canonical : State.reset.Canonical := ⟨rfl, rfl, fun _ hm => List.eq_of_mem_replicate hm ▸ rfl⟩

theorem reset_legal : State.reset.Legal :=
  ⟨by decide, by decide, ⟨fun h => absurd h (by decide), fun h => absurd rfl h⟩, ⟨fun _ => rfl, fun _ => rfl⟩, fun _ => rfl⟩

theorem reset_cursorOk : State.reset.CursorOk :=
  ⟨fun _ => ⟨Nat.le_refl 0, fun hbit => absurd rfl hbit⟩, fun _ => Nat.zero_le 8⟩

theorem reset_sized : State.reset.Sized :=
  State.FilesFit.sized ⟨rfl, fun _ hq => List.eq_of_mem_replicate hq ▸ quantFits_zero, rfl, rfl, rfl, dequantFits_zero, rfl,
    rfl, rfl, rfl, rfl⟩

/-- Settles O2. Nothing has run yet: the memories are empty, no call runs, and BR is on an empty `IN`. -/
theorem resetMeetsEveryInvariant : Obligations.ResetMeetsEveryInvariant :=
  ⟨reset_canonical, ⟨rfl, rfl, rfl⟩, reset_legal, reset_cursorOk, nofun, reset_sized, headerOk_atRest rfl rfl, nofun⟩

/-! The start of a whole-stream call. -/

/-- Settles O27. A command that is taken starts its call; `ZLB_DECOMPRESS` then looks at the length of its sequence. -/
theorem streamCommandsStartTheirCall : Obligations.StreamCommandsStartTheirCall := by
  intro s hr
  refine ⟨?_, fun hlen => ?_, failsClosed_zlbDecompress hr, ?_, ?_⟩
  · rw [exec, execInfDecompress, whenIdle_ready hr]
    rfl
  · rw [exec, execZlbDecompress, whenIdle_ready hr]
    exact if_neg (Nat.not_lt.2 hlen)
  · rw [exec, execPngDecode, whenIdle_ready hr]
    rfl
  · rw [exec, execJpegDecode, whenIdle_ready hr]
    rfl

end Sys2Proof.Machine
